-- ==== Sys2Proof/Word.lean ====
section
/-! DEFINITION. The word types of the core (00_scope.md R5, R6; 10_state.md R20, R25). -/

namespace Sys2Proof

/-- XLEN = 16 (00_scope.md R5): registers, pc, memory cells and addresses. -/
abbrev Word := BitVec 16

/-- A character of the host interface, 8 bits (00_scope.md R8), or a trap vector (30_encoding.md R89). -/
abbrev Byte := BitVec 8

/-- The number of a general register, R0 to R7 (10_state.md R20). -/
abbrev RegId := Fin 8

/-- The condition-flag register holds exactly one of N, Z, P (10_state.md R25). -/
inductive Flag where
  | n
  | z
  | p
  deriving DecidableEq, Repr, Inhabited

end Sys2Proof
end

