-- ==== Sys2Proof/Syntax.lean ====
section
/-! DEFINITION. The instructions of the core: one constructor per row of spec/opcode_table.json. -/

namespace Sys2Proof

/-- The 19 decoded forms (30_encoding.md R83, R90). Operands are the fields of R82: register numbers, and
offsets and immediates as the bits that stand in the word (their sign extension is in the meanings). -/
inductive Instr where
  /-- BR (41_control.md R120). -/
  | br (nzp : BitVec 3) (off9 : BitVec 9)
  /-- ADD, register form (40_operate.md R110). -/
  | addReg (dr sr1 sr2 : RegId)
  /-- ADD, immediate form (40_operate.md R111). -/
  | addImm (dr sr1 : RegId) (imm5 : BitVec 5)
  /-- LD (42_load_store.md R130). -/
  | ld (dr : RegId) (off9 : BitVec 9)
  /-- ST (42_load_store.md R134). -/
  | st (sr : RegId) (off9 : BitVec 9)
  /-- JSR (41_control.md R122). -/
  | jsr (off11 : BitVec 11)
  /-- JSRR (41_control.md R123). -/
  | jsrr (baseR : RegId)
  /-- AND, register form (40_operate.md R112). -/
  | andReg (dr sr1 sr2 : RegId)
  /-- AND, immediate form (40_operate.md R113). -/
  | andImm (dr sr1 : RegId) (imm5 : BitVec 5)
  /-- LDR (42_load_store.md R132). -/
  | ldr (dr baseR : RegId) (off6 : BitVec 6)
  /-- STR (42_load_store.md R136). -/
  | str (sr baseR : RegId) (off6 : BitVec 6)
  /-- RTI, reserved (43_reserved_and_trap.md R151). `low` is bits 11:0, which the diagnostic records. -/
  | rti (low : BitVec 12)
  /-- NOT (40_operate.md R114). -/
  | notReg (dr sr1 : RegId)
  /-- LDI (42_load_store.md R131). -/
  | ldi (dr : RegId) (off9 : BitVec 9)
  /-- STI (42_load_store.md R135). -/
  | sti (sr : RegId) (off9 : BitVec 9)
  /-- JMP, spelled RET for R7 (41_control.md R121). -/
  | jmp (baseR : RegId)
  /-- RES, reserved (43_reserved_and_trap.md R150). `low` is bits 11:0, which the diagnostic records. -/
  | res (low : BitVec 12)
  /-- LEA (42_load_store.md R133). -/
  | lea (dr : RegId) (off9 : BitVec 9)
  /-- TRAP (43_reserved_and_trap.md R152). -/
  | trap (trapvect8 : BitVec 8)
  deriving DecidableEq, Repr

end Sys2Proof
end

