-- ==== Sys2Proof/Decode.lean ====
section
/-! DEFINITION. The decoder, total on all 65536 words (30_encoding.md R80 to R90), and after it the encoder
(R102). The opcode numbers other than TRAP's, and the places of STR's and JSRR's registers, are PRESUMED by
the spec itself (log 1, 2, 18). -/

namespace Sys2Proof

/-- The 16 opcodes (30_encoding.md R90). -/
inductive Opcode where
  | br | add | ld | st | jsr | and | ldr | str | rti | not | ldi | sti | jmp | res | lea | trap
  deriving DecidableEq, Repr

/-- The opcode map of 30_encoding.md R90 (the parameter OPMAP of R5 at the value R5 gives it; log 1). -/
def Opcode.ofBits (b : BitVec 4) : Opcode :=
  match b.toNat with
  | 0 => .br
  | 1 => .add
  | 2 => .ld
  | 3 => .st
  | 4 => .jsr
  | 5 => .and
  | 6 => .ldr
  | 7 => .str
  | 8 => .rti
  | 9 => .not
  | 10 => .ldi
  | 11 => .sti
  | 12 => .jmp
  | 13 => .res
  | 14 => .lea
  | _ => .trap

/-- A 3-bit register number whose lowest bit is bit `lo` of the word (30_encoding.md R82). -/
def regField (w : Word) (lo : Nat) : RegId := (w.extractLsb' lo 3).toFin

/-- The decoder (30_encoding.md R81, R90): "take `ir[15:12]`; for ADD and AND look at `ir[5]`; for
opcode 4 look at `ir[11]`". Every word decodes; nothing is refused. -/
def decode (w : Word) : Instr :=
  match Opcode.ofBits (w.extractLsb' 12 4) with
  | .br => .br (w.extractLsb' 9 3) (w.extractLsb' 0 9)
  | .add =>
    if w.getLsbD 5 then .addImm (regField w 9) (regField w 6) (w.extractLsb' 0 5)
    else .addReg (regField w 9) (regField w 6) (regField w 0)
  | .ld => .ld (regField w 9) (w.extractLsb' 0 9)
  | .st => .st (regField w 9) (w.extractLsb' 0 9)
  | .jsr => if w.getLsbD 11 then .jsr (w.extractLsb' 0 11) else .jsrr (regField w 6)
  | .and =>
    if w.getLsbD 5 then .andImm (regField w 9) (regField w 6) (w.extractLsb' 0 5)
    else .andReg (regField w 9) (regField w 6) (regField w 0)
  | .ldr => .ldr (regField w 9) (regField w 6) (w.extractLsb' 0 6)
  | .str => .str (regField w 9) (regField w 6) (w.extractLsb' 0 6)
  | .rti => .rti (w.extractLsb' 0 12)
  | .not => .notReg (regField w 9) (regField w 6)
  | .ldi => .ldi (regField w 9) (w.extractLsb' 0 9)
  | .sti => .sti (regField w 9) (w.extractLsb' 0 9)
  | .jmp => .jmp (regField w 6)
  | .res => .res (w.extractLsb' 0 12)
  | .lea => .lea (regField w 9) (w.extractLsb' 0 9)
  | .trap => .trap (w.extractLsb' 0 8)

/-- The decoder on a row of spec/opcode_table.json. An instruction is one 16-bit cell, so there is no byte
order to apply and no word to add; no row has more than 16 bits. -/
def decodeTableWord (nbits w : Nat) : Option Instr :=
  if nbits ≤ 16 then some (decode (BitVec.ofNat 16 (w % 2 ^ nbits))) else none

/-- A register number as the 3 bits of its field. -/
def regBits (r : RegId) : BitVec 3 := BitVec.ofFin r

/-- The encoder (30_encoding.md R83, R102): the opcode in bits 15:12, each field in its place, ignored bits 0
but for bits 5:0 of NOT, which are 1. -/
def encode : Instr → Word
  | .br nzp off9 => (0b0000#4 ++ nzp ++ off9).cast rfl
  | .addReg dr sr1 sr2 => (0b0001#4 ++ regBits dr ++ regBits sr1 ++ 0b000#3 ++ regBits sr2).cast rfl
  | .addImm dr sr1 imm5 => (0b0001#4 ++ regBits dr ++ regBits sr1 ++ 0b1#1 ++ imm5).cast rfl
  | .ld dr off9 => (0b0010#4 ++ regBits dr ++ off9).cast rfl
  | .st sr off9 => (0b0011#4 ++ regBits sr ++ off9).cast rfl
  | .jsr off11 => (0b0100#4 ++ 0b1#1 ++ off11).cast rfl
  | .jsrr baseR => (0b0100#4 ++ 0b000#3 ++ regBits baseR ++ 0b000000#6).cast rfl
  | .andReg dr sr1 sr2 => (0b0101#4 ++ regBits dr ++ regBits sr1 ++ 0b000#3 ++ regBits sr2).cast rfl
  | .andImm dr sr1 imm5 => (0b0101#4 ++ regBits dr ++ regBits sr1 ++ 0b1#1 ++ imm5).cast rfl
  | .ldr dr baseR off6 => (0b0110#4 ++ regBits dr ++ regBits baseR ++ off6).cast rfl
  | .str sr baseR off6 => (0b0111#4 ++ regBits sr ++ regBits baseR ++ off6).cast rfl
  | .rti low => (0b1000#4 ++ low).cast rfl
  | .notReg dr sr1 => (0b1001#4 ++ regBits dr ++ regBits sr1 ++ 0b111111#6).cast rfl
  | .ldi dr off9 => (0b1010#4 ++ regBits dr ++ off9).cast rfl
  | .sti sr off9 => (0b1011#4 ++ regBits sr ++ off9).cast rfl
  | .jmp baseR => (0b1100#4 ++ 0b000#3 ++ regBits baseR ++ 0b000000#6).cast rfl
  | .res low => (0b1101#4 ++ low).cast rfl
  | .lea dr off9 => (0b1110#4 ++ regBits dr ++ off9).cast rfl
  | .trap trapvect8 => (0b1111#4 ++ 0b0000#4 ++ trapvect8).cast rfl

/-- The fixed bits of an instruction's row of spec/opcode_table.json: the word has, under `mask`, exactly
the bits `pattern`. -/
structure Row where
  mask : Word
  pattern : Word
  deriving DecidableEq, Repr

/-- The row matches the word. -/
abbrev Row.admits (r : Row) (w : Word) : Prop := w &&& r.mask = r.pattern

/-- The row of spec/opcode_table.json each constructor stands for ("match" and "mask" there). -/
def Instr.row : Instr → Row
  | .br .. => ⟨0xF000#16, 0x0000#16⟩
  | .addReg .. => ⟨0xF020#16, 0x1000#16⟩
  | .addImm .. => ⟨0xF020#16, 0x1020#16⟩
  | .ld .. => ⟨0xF000#16, 0x2000#16⟩
  | .st .. => ⟨0xF000#16, 0x3000#16⟩
  | .jsr .. => ⟨0xF800#16, 0x4800#16⟩
  | .jsrr .. => ⟨0xF800#16, 0x4000#16⟩
  | .andReg .. => ⟨0xF020#16, 0x5000#16⟩
  | .andImm .. => ⟨0xF020#16, 0x5020#16⟩
  | .ldr .. => ⟨0xF000#16, 0x6000#16⟩
  | .str .. => ⟨0xF000#16, 0x7000#16⟩
  | .rti .. => ⟨0xF000#16, 0x8000#16⟩
  | .notReg .. => ⟨0xF000#16, 0x9000#16⟩
  | .ldi .. => ⟨0xF000#16, 0xA000#16⟩
  | .sti .. => ⟨0xF000#16, 0xB000#16⟩
  | .jmp .. => ⟨0xF000#16, 0xC000#16⟩
  | .res .. => ⟨0xF000#16, 0xD000#16⟩
  | .lea .. => ⟨0xF000#16, 0xE000#16⟩
  | .trap .. => ⟨0xF000#16, 0xF000#16⟩

/-- The bits the decoder does not examine (30_encoding.md R84, "ignored_bits" of spec/opcode_table.json). For RES
and RTI the spec ignores bits 11:0; `Instr` keeps them because the diagnostic records the whole word
(60_exceptions.md R180), so none is listed here (log 14). -/
def Instr.ignored : Instr → Word
  | .addReg .. => 0x0018#16
  | .andReg .. => 0x0018#16
  | .notReg .. => 0x003F#16
  | .jmp .. => 0x0E3F#16
  | .jsrr .. => 0x063F#16
  | .trap .. => 0x0F00#16
  | .br .. => 0x0000#16
  | .addImm .. => 0x0000#16
  | .ld .. => 0x0000#16
  | .st .. => 0x0000#16
  | .jsr .. => 0x0000#16
  | .andImm .. => 0x0000#16
  | .ldr .. => 0x0000#16
  | .str .. => 0x0000#16
  | .rti .. => 0x0000#16
  | .ldi .. => 0x0000#16
  | .sti .. => 0x0000#16
  | .res .. => 0x0000#16
  | .lea .. => 0x0000#16

/-- The 19 rows of spec/opcode_table.json, in its order. -/
def opcodeRows : List Row :=
  [⟨0xF000#16, 0x0000#16⟩, ⟨0xF020#16, 0x1000#16⟩, ⟨0xF020#16, 0x1020#16⟩, ⟨0xF000#16, 0x2000#16⟩,
   ⟨0xF000#16, 0x3000#16⟩, ⟨0xF800#16, 0x4800#16⟩, ⟨0xF800#16, 0x4000#16⟩, ⟨0xF020#16, 0x5000#16⟩,
   ⟨0xF020#16, 0x5020#16⟩, ⟨0xF000#16, 0x6000#16⟩] ++
  [⟨0xF000#16, 0x7000#16⟩, ⟨0xF000#16, 0x8000#16⟩, ⟨0xF000#16, 0x9000#16⟩, ⟨0xF000#16, 0xA000#16⟩,
   ⟨0xF000#16, 0xB000#16⟩, ⟨0xF000#16, 0xC000#16⟩, ⟨0xF000#16, 0xD000#16⟩, ⟨0xF000#16, 0xE000#16⟩,
   ⟨0xF000#16, 0xF000#16⟩]

end Sys2Proof
end

