-- ==== Sys2Proof/Config.lean ====
section
/-! DEFINITION. The parameters of a core (00_scope.md R5) and its one free value, what a
host-bound trap routine does (44_trap_routines.md R160, R167). -/

namespace Sys2Proof

/-- The parameters of 00_scope.md R5 that the spec leaves configurable or open, each with the default R5
gives. They are fixed for the life of one core instance: State carries them and no step writes them
(log 11). KBSR_ADDR and KBDR_ADDR are PRESUMED by the spec itself (log 3). -/
structure Config where
  /-- START_ADDR. -/
  startAddr : Word := 0x3000#16
  /-- STRICT: reserved opcodes and unbound trap vectors are fatal. -/
  strict : Bool := false
  /-- KBSR_ADDR. -/
  kbsrAddr : Word := 0xFE00#16
  /-- KBDR_ADDR. -/
  kbdrAddr : Word := 0xFE02#16
  /-- EXTRA_TRAPS: vectors bound at reset, each to a host routine known by its number. -/
  extraTraps : List (Byte × Nat) := []
  /-- IN_SETS_FLAGS. -/
  inSetsFlags : Bool := true
  deriving DecidableEq, Repr, Inhabited

/-- What R5 asks of the parameters: the two keyboard addresses differ. -/
abbrev Config.wf (c : Config) : Prop := c.kbsrAddr ≠ c.kbdrAddr

/-- What a host-bound routine may look at when it is run (44_trap_routines.md R160, R167). -/
structure HostView where
  regs : Vector Word 8
  cc : Flag
  mem : List (Nat × Word)
  running : Bool
  keys : List (Option Byte)
  deriving DecidableEq, Repr, Inhabited

/-- What a host-bound routine may do (44_trap_routines.md R160, R167): new registers, a new condition
flag (one of N, Z, P by its type), writes to memory in order, clearing `running`, taking answers from the
keyboard, writing characters. It has no way to write `pc`. `completes` is false while the routine stays
in T3 (43_reserved_and_trap.md R154). -/
structure HostEffect where
  regs : Vector Word 8
  cc : Flag
  writes : List (Word × Word)
  clearsRunning : Bool
  keysTaken : Nat
  output : List Byte
  completes : Bool
  deriving DecidableEq, Repr, Inhabited

/-- FREE VALUE (log 8). What host routine number `id` does at its `call`-th run, given what it sees: "a
function of the host; the spec constrains it only by rule R160" (44_trap_routines.md R167). It has no
body, so no proof can rest on what it answers. -/
opaque Config.hostRoutine (id call : Nat) (view : HostView) : HostEffect

end Sys2Proof
end

