-- ==== Sys2Proof/Machine/State.lean ====
section
/-! DEFINITION. The state of the core (10_state.md) as plain data, and its value after reset (R36). -/

namespace Sys2Proof.Machine

/-- The memory array (10_state.md R28): (address, word) pairs, one per cell that does not hold the 0x0000 an
unlisted cell reads as, addresses strictly rising (log 12). -/
abbrev Memory := List (Nat × Word)

/-- What a slot of the trap table may hold (10_state.md R32): an architected routine
(44_trap_routines.md R160) or a routine of the host, known by its number (R167). -/
inductive Routine where
  | getc
  | out
  | puts
  | input
  | putsp
  | halt
  | host (id : Nat)
  deriving DecidableEq, Repr

/-- The trap table (10_state.md R32): the bound slots, vectors strictly rising, `none` being unbound
(log 25). -/
abbrev TrapTable := List (Nat × Option Routine)

/-- The trap dispatch state machine between steps of the model (43_reserved_and_trap.md R154): idle, or in
phase T3 of a TRAP whose routine has not finished (log 6, 7). For PUTS and PUTSP `next` is the address of
the word to be read next. -/
inductive TrapPhase where
  | idle
  | getc
  | input
  | puts (next : Word)
  | putsp (next : Word)
  | host (id : Nat)
  deriving DecidableEq, Repr

/-- The two runtime faults with the information they record (60_exceptions.md R180). -/
inductive RuntimeFault where
  | reservedOpcode (ir : Word)
  | unboundTrapVector (vector : Byte)
  deriving DecidableEq, Repr

/-- What Step returns (10_state.md R34). -/
inductive StepStatus where
  | continued
  | halted
  | cancelled
  deriving DecidableEq, Repr

/-- What the hook answers (00_scope.md R8(d)). -/
inductive HookAnswer where
  | goOn
  | cancel
  deriving DecidableEq, Repr

/-- The state (10_state.md R33): the core's registers, memory, trap table and flags, its parameters (R5), and
the host's side of the interface as data (00_scope.md R8). -/
structure State where
  /-- The parameters of 00_scope.md R5; no step writes them. -/
  cfg : Config
  /-- R0 to R7 (R20). -/
  regs : Vector Word 8
  /-- The program counter, a word address (R23). -/
  pc : Word
  /-- The condition-flag register (R25). -/
  cc : Flag
  /-- The memory array (R28). -/
  mem : Memory
  /-- The run flag (R30). -/
  running : Bool
  /-- The diagnostic register (R31). -/
  diag : Option RuntimeFault
  /-- The trap table (R32). -/
  tt : TrapTable
  /-- The model's own: where a TRAP that has not finished stands (log 6). -/
  trapPhase : TrapPhase
  /-- What the most recent Step returned; none before the first and while a TRAP is in T3 (R34; log 10). -/
  status : Option StepStatus
  /-- The keyboard's answers still to come: `some c` a key, `none` "no key at this poll" (R35(a); log 5). -/
  keys : List (Option Byte)
  /-- The hook's answers still to come; `continue` once they are used up (00_scope.md R8(d); log 9). -/
  hook : List HookAnswer
  /-- The characters written, oldest first (R35(b); log 13). -/
  output : List Byte
  /-- The model's own: how often a host-bound routine has been run (log 8). -/
  hostCalls : Nat
  deriving DecidableEq, Repr

/-- There is no fault that stops the machine: "Nothing else faults" (60_exceptions.md R180, R181), and the two
runtime faults are next states by the policy of R182. Nobody raises one. -/
inductive Fault where
  deriving DecidableEq, Repr

/-- Why an instruction has no meaning in this model. -/
inductive Refusal where
  /-- Raised by an arm of exec that has no meaning yet. Safe: the machine stops where the hardware goes on.
  No arm raises it. -/
  | notModelled (mnemonic : String)
  deriving DecidableEq, Repr

/-- The trap table after reset with EXTRA_TRAPS empty (10_state.md R36). -/
def TrapTable.architected : TrapTable :=
  [(0x20, some .getc), (0x21, some .out), (0x22, some .puts), (0x23, some .input), (0x24, some .putsp),
   (0x25, some .halt)]

/-- The core right after reset (10_state.md R36, 70_reset_and_hazards.md R210) with the default parameters
of R5; `hostReset` is the host command for any parameters. The host's lists are empty (log 5, 9, 13). -/
def State.reset : State where
  cfg := {}
  regs := Vector.replicate 8 0x0000#16
  pc := 0x3000#16
  cc := .z
  mem := []
  running := false
  diag := none
  tt := TrapTable.architected
  trapPhase := .idle
  status := none
  keys := []
  hook := []
  output := []
  hostCalls := 0

end Sys2Proof.Machine
end

