-- ==== Sys2Proof/Machine/Ops.lean ====
section
/-! DEFINITION. The named operations over registers, memory, the host's lists and the trap dispatch
state machine, and the fault policy. -/

namespace Sys2Proof.Machine

/-! ### Sparse tables: key and value pairs in one canonical form, `d` being what an unlisted key reads as -/

/-- The value at a key. -/
def Sparse.get {α : Type} (d : α) : List (Nat × α) → Nat → α
  | [], _ => d
  | e :: rest, a => if e.1 = a then e.2 else Sparse.get d rest a

/-- A new entry before the first larger key. -/
def Sparse.insert {α : Type} : List (Nat × α) → Nat → α → List (Nat × α)
  | [], a, v => [(a, v)]
  | e :: rest, a, v => if a < e.1 then (a, v) :: e :: rest else e :: Sparse.insert rest a v

/-- The table with the value at a key replaced; a value equal to `d` is not listed. -/
def Sparse.set {α : Type} [DecidableEq α] (d : α) (l : List (Nat × α)) (a : Nat) (v : α) :
    List (Nat × α) :=
  if v = d then l.filter (fun e => e.1 ≠ a) else Sparse.insert (l.filter (fun e => e.1 ≠ a)) a v

/-- The canonical form: keys strictly rising and below `bound`, no value equal to `d`. -/
def Sparse.wf {α : Type} [DecidableEq α] (d : α) (bound : Nat) : List (Nat × α) → Bool
  | [] => true
  | e :: rest =>
    decide (e.2 ≠ d) && decide (e.1 < bound) && rest.all (fun f => decide (e.1 < f.1)) &&
      Sparse.wf d bound rest

/-! ### The memory array (10_state.md R28) and the trap table (R32) -/

/-- `M[a]`: the cell, with no device decoding. An unlisted cell holds 0x0000, the reset value (R36). -/
def Memory.read (m : Memory) (a : Word) : Word := Sparse.get 0x0000#16 m a.toNat

/-- `M[a] <- v`. -/
def Memory.write (m : Memory) (a v : Word) : Memory := Sparse.set 0x0000#16 m a.toNat v

/-- The canonical form of the memory: MEMWORDS = 65536 cells (00_scope.md R5). -/
def Memory.wf (m : Memory) : Bool := Sparse.wf 0x0000#16 65536 m

/-- Words written one after another at rising addresses from `a`, modulo 65536. -/
def Memory.writeAll (m : Memory) (a : Word) : List Word → Memory
  | [] => m
  | v :: rest => Memory.writeAll (m.write a v) (a + 1) rest

/-- `TT[v]`: what the slot holds, `none` being unbound. -/
def TrapTable.lookup (t : TrapTable) (v : Byte) : Option Routine := Sparse.get none t v.toNat

/-- `TT[v] <- r`. -/
def TrapTable.bind (t : TrapTable) (v : Byte) (r : Routine) : TrapTable := Sparse.set none t v.toNat (some r)

/-- The canonical form of the trap table: 256 slots. -/
def TrapTable.wf (t : TrapTable) : Bool := Sparse.wf none 256 t

/-! ### Writes of one field -/

/-- `x[i]` (10_state.md R20). -/
def State.reg (s : State) (i : RegId) : Word := s.regs[i.val]

/-- `x[i] <- v` (10_state.md R20): no register is hard-wired. -/
def State.setReg (s : State) (i : RegId) (v : Word) : State := { s with regs := s.regs.set i.val v }

/-- All eight registers at once: only a host-bound routine does this. -/
def State.setRegs (s : State) (v : Vector Word 8) : State := { s with regs := v }

/-- `pc <- target` (10_state.md R23). -/
def State.setPc (s : State) (v : Word) : State := { s with pc := v }

/-- `cc <- f` (10_state.md R25). -/
def State.setCc (s : State) (f : Flag) : State := { s with cc := f }

/-- The memory array replaced. -/
def State.setMem (s : State) (m : Memory) : State := { s with mem := m }

/-- `running <- b` (10_state.md R30). -/
def State.setRunning (s : State) (b : Bool) : State := { s with running := b }

/-- `diag <- d` (10_state.md R31). -/
def State.setDiag (s : State) (d : Option RuntimeFault) : State := { s with diag := d }

/-- The trap table replaced; only host commands do this (10_state.md R32). -/
def State.setTt (s : State) (t : TrapTable) : State := { s with tt := t }

/-- The phase of the trap dispatch state machine. -/
def State.setTrapPhase (s : State) (p : TrapPhase) : State := { s with trapPhase := p }

/-- What Step returns (10_state.md R34). -/
def State.setStatus (s : State) (r : Option StepStatus) : State := { s with status := r }

/-- The keyboard's answers still to come. -/
def State.setKeys (s : State) (k : List (Option Byte)) : State := { s with keys := k }

/-- The hook's answers still to come. -/
def State.setHook (s : State) (h : List HookAnswer) : State := { s with hook := h }

/-- Characters appended to the output stream (00_scope.md R8(c)). -/
def State.putChars (s : State) (cs : List Byte) : State := { s with output := s.output ++ cs }

/-- One more run of a host-bound routine is counted. -/
def State.countHostCall (s : State) : State := { s with hostCalls := s.hostCalls + 1 }

/-- `PutChar(c)` (00_scope.md R8(c)). -/
def State.putChar (s : State) (c : Byte) : State := s.putChars [c]

/-! ### Parts of a word -/

/-- `v[7:0]`. -/
def lowByte (v : Word) : Byte := v.extractLsb' 0 8

/-- `v[15:8]`. -/
def highByte (v : Word) : Byte := v.extractLsb' 8 8

/-- `zext_16(b)` (00_scope.md R7). -/
def zext16 (b : Byte) : Word := b.setWidth 16

/-! ### Memory access through the I/O address decoder (20_memory.md R52 to R57) -/

/-- `M[a]` of a state. -/
def State.cell (s : State) (a : Word) : Word := s.mem.read a

/-- `M[a] <- v` of a state. -/
def State.setCell (s : State) (a v : Word) : State := s.setMem (s.mem.write a v)

/-- The poll a read of KBSR makes (20_memory.md R52): when a key is waiting the status cell becomes 0x8000 and
the key is taken into the data cell, else the status cell becomes 0x0000. -/
def pollKeyboard (s : State) : State :=
  match s.keys with
  | some c :: rest =>
    ((s.setKeys rest).setCell s.cfg.kbsrAddr 0x8000#16).setCell s.cfg.kbdrAddr (zext16 c)
  | none :: rest => (s.setKeys rest).setCell s.cfg.kbsrAddr 0x0000#16
  | [] => s.setCell s.cfg.kbsrAddr 0x0000#16

/-- What reading address `a` does to the state (20_memory.md R52, R58): a poll at KBSR_ADDR, nothing
elsewhere. -/
def readEffect (s : State) (a : Word) : State := if a = s.cfg.kbsrAddr then pollKeyboard s else s

/-- `MemRead(a, 1)` (20_memory.md R52): the word read and the state after the read. -/
def memRead (s : State) (a : Word) : Word × State := ((readEffect s a).cell a, readEffect s a)

/-- `MemWrite(a, 1, v)` (20_memory.md R55, R56): a plain store at every address. -/
def memWrite (s : State) (a v : Word) : State := s.setCell a v

/-! ### The fault policy, and the entry and return of TRAP -/

/-- The halt action (10_state.md R34): `running` is cleared and this Step returns `halted`. -/
def haltAction (s : State) : State := (s.setRunning false).setStatus (some .halted)

/-- `raise F(info)` (60_exceptions.md R182): in strict mode the diagnostic is recorded and the core halts; in
lenient mode nothing happens. There is no handler and no vector; `pc` stays where fetch left it. -/
def raise (f : RuntimeFault) (s : State) : State :=
  if s.cfg.strict then haltAction (s.setDiag (some f)) else s

/-- Trap entry (60_exceptions.md R188; phase T1 of 43_reserved_and_trap.md R154): the incremented pc is saved
in R7, and nothing else is saved. -/
def trapEntry (s : State) : State := s.setReg 7 s.pc

/-- Trap return (60_exceptions.md R189; phase T4): pc is R7 as the routine left it. -/
def trapReturn (s : State) : State := s.setPc (s.reg 7)

/-! ### Fetch and hook -/

/-- Steps 1 and 2 of the instruction cycle (10_state.md R34): the word at pc is read through the I/O decoder
and pc is incremented modulo 65536 (R24). The Step now under way returns `continued` unless a halt
action or a cancel says otherwise. -/
def fetch (s : State) : Word × State :=
  ((memRead s s.pc).1, ((memRead s s.pc).2.setPc (s.pc + 1)).setStatus (some .continued))

/-- The hook's answer at step 3 of the instruction cycle (10_state.md R34) and the answers left after it;
`continue` when there is none (00_scope.md R8(d); log 9). -/
def hookAnswer (s : State) : HookAnswer :=
  match s.hook with
  | [] => .goOn
  | a :: _ => a

/-- The state once the hook has answered. -/
def consultHook (s : State) : State := s.setHook s.hook.tail

end Sys2Proof.Machine
end

