-- ==== Sys2Proof/Machine/Flags.lean ====
section
/-! DEFINITION. The condition flags (10_state.md R25 to R27). -/

namespace Sys2Proof.Machine

/-- The one-hot number of a flag (10_state.md R25; the pairing with N, Z, P is PRESUMED by the spec, log 2). -/
def Flag.bits : Flag → BitVec 3
  | .n => 0b100#3
  | .z => 0b010#3
  | .p => 0b001#3

/-- The flag of a 16-bit value (10_state.md R26). -/
def Flag.ofWord (v : Word) : Flag := if v = 0x0000#16 then .z else if v.msb then .n else .p

/-- `setcc(v)` (10_state.md R26). -/
def setcc (v : Word) (s : State) : State := s.setCc (Flag.ofWord v)

/-- The test of BR (41_control.md R120): `(condition_mask & current_flags) != 0`. -/
def branchTaken (nzp : BitVec 3) (cc : Flag) : Bool := nzp &&& Flag.bits cc ≠ 0b000#3

/-- A result is written to its register and `cc` is set from the value written (40_operate.md R116). -/
def writeResult (dr : RegId) (v : Word) (s : State) : State := setcc v (s.setReg dr v)

end Sys2Proof.Machine
end

