-- ==== Sys2Proof/Machine/Operands.lean ====
section
/-! DEFINITION. Operand forms and addressing modes (30_encoding.md R85 to R87, 42_load_store.md R137). -/

namespace Sys2Proof.Machine

/-- `sext_5` (30_encoding.md R86). -/
def sext5 (f : BitVec 5) : Word := f.signExtend 16

/-- `sext_6`. -/
def sext6 (f : BitVec 6) : Word := f.signExtend 16

/-- `sext_9`. -/
def sext9 (f : BitVec 9) : Word := f.signExtend 16

/-- `sext_11`. -/
def sext11 (f : BitVec 11) : Word := f.signExtend 16

/-- PC-relative (42_load_store.md R137): `pc + sext_9(off9)`, pc being the incremented PC. -/
def pcRelative (s : State) (off9 : BitVec 9) : Word := s.pc + sext9 off9

/-- Base plus offset (42_load_store.md R137): `x[BaseR] + sext_6(off6)`. -/
def basePlusOffset (s : State) (baseR : RegId) (off6 : BitVec 6) : Word := s.reg baseR + sext6 off6

/-- Indirect (42_load_store.md R137): `MemRead(pc + sext_9(off9), 1)`, the address and the state after the
pointer was read through the I/O decoder. -/
def indirect (s : State) (off9 : BitVec 9) : Word × State := memRead s (pcRelative s off9)

/-- The target of JSR (41_control.md R122): `pc + sext_11(off11)`. -/
def callTarget (s : State) (off11 : BitVec 11) : Word := s.pc + sext11 off11

end Sys2Proof.Machine
end

