-- ==== Sys2Proof/Machine/Control.lean ====
section
/-! DEFINITION. Control transfer: BR, JMP, JSR, JSRR (41_control.md). `pc` is the incremented PC. -/

namespace Sys2Proof.Machine

/-- BR (41_control.md R120). -/
def execBr (nzp : BitVec 3) (off9 : BitVec 9) (s : State) : Host.Outcome State Fault Refusal :=
  .next (if branchTaken nzp s.cc then s.setPc (pcRelative s off9) else s)

/-- JMP (41_control.md R121). -/
def execJmp (baseR : RegId) (s : State) : Host.Outcome State Fault Refusal :=
  .next (s.setPc (s.reg baseR))

/-- JSR (41_control.md R122). -/
def execJsr (off11 : BitVec 11) (s : State) : Host.Outcome State Fault Refusal :=
  .next ((s.setReg 7 s.pc).setPc (callTarget s off11))

/-- JSRR (41_control.md R123): R7 is written first, the base register is read second (log 18). -/
def execJsrr (baseR : RegId) (s : State) : Host.Outcome State Fault Refusal :=
  .next ((s.setReg 7 s.pc).setPc ((s.setReg 7 s.pc).reg baseR))

end Sys2Proof.Machine
end

