-- ==== Sys2Proof/Machine/LoadStore.lean ====
section
/-! DEFINITION. Loads and stores: LD, LDI, LDR, LEA, ST, STI, STR (42_load_store.md). `pc` is the incremented
PC. Every read goes through the I/O decoder (20_memory.md R57). -/

namespace Sys2Proof.Machine

/-- A word is loaded from `ea` into `dr`, and `cc` is set from it (42_load_store.md R130 to R132). -/
def loadFrom (dr : RegId) (ea : Word) (s : State) : State :=
  writeResult dr (memRead s ea).1 (memRead s ea).2

/-- LD (42_load_store.md R130). -/
def execLd (dr : RegId) (off9 : BitVec 9) (s : State) : Host.Outcome State Fault Refusal :=
  .next (loadFrom dr (pcRelative s off9) s)

/-- LDI (42_load_store.md R131): the pointer is read first, the data second. -/
def execLdi (dr : RegId) (off9 : BitVec 9) (s : State) : Host.Outcome State Fault Refusal :=
  .next (loadFrom dr (indirect s off9).1 (indirect s off9).2)

/-- LDR (42_load_store.md R132). -/
def execLdr (dr baseR : RegId) (off6 : BitVec 6) (s : State) : Host.Outcome State Fault Refusal :=
  .next (loadFrom dr (basePlusOffset s baseR off6) s)

/-- LEA (42_load_store.md R133): the address only, no memory access. -/
def execLea (dr : RegId) (off9 : BitVec 9) (s : State) : Host.Outcome State Fault Refusal :=
  .next (writeResult dr (pcRelative s off9) s)

/-- ST (42_load_store.md R134). -/
def execSt (sr : RegId) (off9 : BitVec 9) (s : State) : Host.Outcome State Fault Refusal :=
  .next (memWrite s (pcRelative s off9) (s.reg sr))

/-- STI (42_load_store.md R135): the pointer is read through the I/O decoder, then the word is written. -/
def execSti (sr : RegId) (off9 : BitVec 9) (s : State) : Host.Outcome State Fault Refusal :=
  .next (memWrite (indirect s off9).2 (indirect s off9).1 (s.reg sr))

/-- STR (42_load_store.md R136). -/
def execStr (sr baseR : RegId) (off6 : BitVec 6) (s : State) : Host.Outcome State Fault Refusal :=
  .next (memWrite s (basePlusOffset s baseR off6) (s.reg sr))

end Sys2Proof.Machine
end

