-- ==== Sys2Proof/Machine/Operate.lean ====
section
/-! DEFINITION. The operate instructions ADD, AND, NOT (40_operate.md). -/

namespace Sys2Proof.Machine

/-- ADD, register form (40_operate.md R110). -/
def execAddReg (dr sr1 sr2 : RegId) (s : State) : Host.Outcome State Fault Refusal :=
  .next (writeResult dr (s.reg sr1 + s.reg sr2) s)

/-- ADD, immediate form (40_operate.md R111). -/
def execAddImm (dr sr1 : RegId) (imm5 : BitVec 5) (s : State) : Host.Outcome State Fault Refusal :=
  .next (writeResult dr (s.reg sr1 + sext5 imm5) s)

/-- AND, register form (40_operate.md R112). -/
def execAndReg (dr sr1 sr2 : RegId) (s : State) : Host.Outcome State Fault Refusal :=
  .next (writeResult dr (s.reg sr1 &&& s.reg sr2) s)

/-- AND, immediate form (40_operate.md R113). -/
def execAndImm (dr sr1 : RegId) (imm5 : BitVec 5) (s : State) : Host.Outcome State Fault Refusal :=
  .next (writeResult dr (s.reg sr1 &&& sext5 imm5) s)

/-- NOT (40_operate.md R114). -/
def execNot (dr sr1 : RegId) (s : State) : Host.Outcome State Fault Refusal :=
  .next (writeResult dr (~~~ s.reg sr1) s)

end Sys2Proof.Machine
end

