-- ==== Sys2Proof/Machine/Reserved.lean ====
section
/-! DEFINITION. The reserved opcodes RES and RTI (43_reserved_and_trap.md). -/

namespace Sys2Proof.Machine

/-- RES (43_reserved_and_trap.md R150): `raise ReservedOpcode(ir)`, opcode 13 with the word's low 12 bits. -/
def execRes (low : BitVec 12) (s : State) : Host.Outcome State Fault Refusal :=
  .next (raise (.reservedOpcode (0b1101#4 ++ low)) s)

/-- RTI (43_reserved_and_trap.md R151): exactly as RES, opcode 8. It returns from nothing. -/
def execRti (low : BitVec 12) (s : State) : Host.Outcome State Fault Refusal :=
  .next (raise (.reservedOpcode (0b1000#4 ++ low)) s)

end Sys2Proof.Machine
end

