-- ==== Sys2Proof/Machine/Trap.lean ====
section
/-! DEFINITION. TRAP and its routines (43_reserved_and_trap.md R152 to R154, 44_trap_routines.md). -/

namespace Sys2Proof.Machine

/-- The routine is not finished: the machine stays in phase T3 and Step has not returned
(43_reserved_and_trap.md R154; log 6). -/
def stayInT3 (p : TrapPhase) (s : State) : State := (s.setTrapPhase p).setStatus none

/-- The routine is finished: phase T4 (43_reserved_and_trap.md R154). -/
def finishTrap (s : State) : State := trapReturn (s.setTrapPhase .idle)

/-- `ReadKey()` (00_scope.md R8(b)): the next key to come and the answers left after it, passing over the
moments at which none is waiting; `none` when no key comes (log 5, 6). -/
def readKey : List (Option Byte) → Option (Byte × List (Option Byte))
  | [] => none
  | some c :: rest => some (c, rest)
  | none :: rest => readKey rest

/-- GETC (44_trap_routines.md R161). -/
def runGetc (s : State) : State :=
  match readKey s.keys with
  | none => stayInT3 .getc s
  | some (c, rest) => finishTrap (writeResult 0 (zext16 c) (s.setKeys rest))

/-- OUT (44_trap_routines.md R162). -/
def runOut (s : State) : State := finishTrap (s.putChar (lowByte (s.reg 0)))

/-- What IN writes for the character it read (44_trap_routines.md R164): the echo, then R0, then `cc` if
IN_SETS_FLAGS. -/
def inputResult (c : Byte) (s : State) : State :=
  if s.cfg.inSetsFlags then writeResult 0 (zext16 c) (s.putChar c) else (s.putChar c).setReg 0 (zext16 c)

/-- IN (44_trap_routines.md R164). -/
def runInput (s : State) : State :=
  match readKey s.keys with
  | none => stayInT3 .input s
  | some (c, rest) => finishTrap (inputResult c (s.setKeys rest))

/-- The loop of PUTS (44_trap_routines.md R163) over at most `n` words from `a`. The first component is
`none` when the zero word was read, else the address of the word to be read next. -/
def putsScan : Nat → Word → State → Option Word × State
  | 0, a, s => (some a, s)
  | n + 1, a, s =>
    if (memRead s a).1 = 0x0000#16 then (none, (memRead s a).2)
    else putsScan n (a + 1) ((memRead s a).2.putChar (lowByte (memRead s a).1))

/-- The loop of PUTSP (44_trap_routines.md R165) over at most `n` words from `a`: the low byte, then the
high byte, up to the first zero byte. -/
def putspScan : Nat → Word → State → Option Word × State
  | 0, a, s => (some a, s)
  | n + 1, a, s =>
    if lowByte (memRead s a).1 = 0x00#8 then (none, (memRead s a).2)
    else if highByte (memRead s a).1 = 0x00#8 then
      (none, (memRead s a).2.putChar (lowByte (memRead s a).1))
    else
      putspScan n (a + 1)
        (((memRead s a).2.putChar (lowByte (memRead s a).1)).putChar (highByte (memRead s a).1))

/-- How many words PUTS and PUTSP read in one step of the model: every cell once (log 7). -/
def scanLimit : Nat := 65536

/-- PUTS from the word at `a` on (44_trap_routines.md R163). -/
def runPuts (a : Word) (s : State) : State :=
  match putsScan scanLimit a s with
  | (none, t) => finishTrap t
  | (some b, t) => stayInT3 (.puts b) t

/-- PUTSP from the word at `a` on (44_trap_routines.md R165). -/
def runPutsp (a : Word) (s : State) : State :=
  match putspScan scanLimit a s with
  | (none, t) => finishTrap t
  | (some b, t) => stayInT3 (.putsp b) t

/-- HALT (44_trap_routines.md R166). -/
def runHalt (s : State) : State := finishTrap (haltAction s)

/-- What a host-bound routine sees (44_trap_routines.md R160). -/
def hostView (s : State) : HostView where
  regs := s.regs
  cc := s.cc
  mem := s.mem
  running := s.running
  keys := s.keys

/-- The memory after a host-bound routine's writes, in order. -/
def hostWrites (m : Memory) : List (Word × Word) → Memory
  | [] => m
  | w :: rest => hostWrites (m.write w.1 w.2) rest

/-- What a host-bound routine did, applied to the state (44_trap_routines.md R167): `x`, `cc`, `M`, `running`
and the input and output streams, and nothing else. -/
def applyHostEffect (e : HostEffect) (s : State) : State :=
  (((((s.setRegs e.regs).setCc e.cc).setMem (hostWrites s.mem e.writes)).setRunning
    (s.running && !e.clearsRunning)).setKeys (s.keys.drop e.keysTaken)).putChars e.output

/-- A host-bound routine (44_trap_routines.md R167): the free value Config.hostRoutine says what it does
(log 8). -/
def runHost (id : Nat) (s : State) : State :=
  let e := Config.hostRoutine id s.hostCalls (hostView s)
  if e.completes then finishTrap (applyHostEffect e s.countHostCall)
  else stayInT3 (.host id) (applyHostEffect e s.countHostCall)

/-- Phase T3 as it begins: the routine of the slot is run (43_reserved_and_trap.md R152, R154). PUTS and PUTSP
begin at the word R0 names. -/
def startRoutine : Routine → State → State
  | .getc, s => runGetc s
  | .out, s => runOut s
  | .puts, s => runPuts (s.reg 0) s
  | .input, s => runInput s
  | .putsp, s => runPutsp (s.reg 0) s
  | .halt, s => runHalt s
  | .host id, s => runHost id s

/-- Phase T3 going on from where it stands. -/
def continueRoutine : TrapPhase → State → State
  | .idle, s => s
  | .getc, s => runGetc s
  | .input, s => runInput s
  | .puts a, s => runPuts a s
  | .putsp a, s => runPutsp a s
  | .host id, s => runHost id s

/-- The step of a core whose TRAP is in T3: no fetch and no hook (43_reserved_and_trap.md R154). -/
def resumeTrap (s : State) : State := continueRoutine s.trapPhase (s.setStatus (some .continued))

/-- TRAP from phase T2 on: the slot is looked up and its routine run, or the fault policy applied
(43_reserved_and_trap.md R152, R153). -/
def dispatchTrap (v : Byte) (s : State) : State :=
  match s.tt.lookup v with
  | some r => startRoutine r s
  | none => trapReturn (raise (.unboundTrapVector v) s)

/-- TRAP (43_reserved_and_trap.md R152): R7 is written before the lookup, bound or not (R153(a), (b)). -/
def execTrap (trapvect8 : BitVec 8) (s : State) : Host.Outcome State Fault Refusal :=
  .next (dispatchTrap trapvect8 (trapEntry s))

end Sys2Proof.Machine
end

