-- ==== Sys2Proof/Machine/Step.lean ====
section
/-! DEFINITION. One step of the core (10_state.md R34). -/

namespace Sys2Proof.Machine

/-- One step (10_state.md R34): fetch, increment, hook, decode, execute. A core whose TRAP is still in phase T3
goes on with that TRAP instead (43_reserved_and_trap.md R154; log 6), so one Step of the spec is one step
of the model, or as many as the TRAP takes. `running` is not tested (R34). -/
def step (s : State) : Host.Outcome State Fault Refusal :=
  if s.trapPhase = .idle then
    match hookAnswer (fetch s).2 with
    | .cancel => .next ((consultHook (fetch s).2).setStatus (some .cancelled))
    | .goOn => exec (decode (fetch s).1) (consultHook (fetch s).2)
  else .next (resumeTrap s)

/-- Where the next instruction is fetched from when it is placed by hand: at pc, or at the cell after it when
pc is KBSR_ADDR, whose word no store decides (20_memory.md R56, R57; log 22). -/
def State.fetchPoint (s : State) : Word := if s.pc = s.cfg.kbsrAddr then s.pc + 1 else s.pc

/-- The hook's answers without those that would cancel the next instruction. -/
def dropCancels : List HookAnswer → List HookAnswer
  | .cancel :: rest => dropCancels rest
  | h => h

/-- The state with a word placed where step fetches next, and whatever would keep step from running it
moved aside: a TRAP in T3, a hook about to cancel (log 21, 22). An instruction is one cell. -/
def State.withFetchWord (s : State) (nbits w : Nat) : State :=
  { s with
    pc := s.fetchPoint
    mem := s.mem.write s.fetchPoint (BitVec.ofNat 16 (w % 2 ^ nbits))
    trapPhase := .idle
    hook := dropCancels s.hook }

end Sys2Proof.Machine
end

