-- ==== Sys2Proof/Machine/Commands.lean ====
section
/-! DEFINITION. The host commands Reset, Load and BindTrap (70_reset_and_hazards.md), which act only between
instructions (00_scope.md R8(e)), and the arrival of a key. -/

namespace Sys2Proof.Machine

/-- The trap table after reset (10_state.md R36): the architected slots "plus EXTRA_TRAPS", bound in the order
they are listed (log 24). -/
def resetTable (extra : List (Byte × Nat)) : TrapTable :=
  extra.foldl (fun t e => t.bind e.1 (.host e.2)) TrapTable.architected

/-- `Reset` (70_reset_and_hazards.md R210) for the parameters the core has. "Reset does not touch the host's
input device or output stream", nor the hook (log 23). -/
def hostReset (s : State) : State :=
  { State.reset with
    cfg := s.cfg
    pc := s.cfg.startAddr
    tt := resetTable s.cfg.extraTraps
    keys := s.keys
    hook := s.hook
    output := s.output
    hostCalls := s.hostCalls }

/-- What `Load` answers (70_reset_and_hazards.md R213). -/
inductive LoadResult where
  | ok (s : State)
  | imageTooShort
  | imageOverflow
  deriving DecidableEq, Repr

/-- The words of an image after its origin, big endian (70_reset_and_hazards.md R212); a trailing odd byte is
ignored (R213). -/
def imageWords : List Byte → List Word
  | hi :: lo :: rest => (hi ++ lo) :: imageWords rest
  | _ => []

/-- `Load(b)` (70_reset_and_hazards.md R213 to R215): the overflow test is made before any write, and only
memory is written, without the I/O decoder (R214). -/
def load (b : List Byte) (s : State) : LoadResult :=
  match b with
  | o1 :: o0 :: rest =>
    if (o1 ++ o0).toNat + rest.length / 2 > 65536 then .imageOverflow
    else .ok (s.setMem (s.mem.writeAll (o1 ++ o0) (imageWords rest)))
  | _ => .imageTooShort

/-- `BindTrap(v, routine)` (70_reset_and_hazards.md R221): any slot, architected ones included. -/
def bindTrap (v : Byte) (r : Routine) (s : State) : State := s.setTt (s.tt.bind v r)

/-- The host delivers a key, behind the answers already to come (00_scope.md R8(b); log 5). -/
def keyArrives (c : Byte) (s : State) : State := s.setKeys (s.keys ++ [some c])

end Sys2Proof.Machine
end

