-- ==== Sys2Proof/Machine/Run.lean ====
section
/-! DEFINITION. The host command Run (70_reset_and_hazards.md R219, R222). -/

namespace Sys2Proof.Machine

/-- What `Run` returns (70_reset_and_hazards.md R219), or that the bound on its steps was reached first
(log 27). -/
inductive RunResult where
  | halted (s : State)
  | cancelled (s : State)
  | notOver (s : State)
  deriving DecidableEq, Repr

/-- The loop of `Run` (70_reset_and_hazards.md R219) for at most `n` steps. `running` is tested between Steps,
so not while a TRAP is in T3. -/
def runLoop : Nat → State → RunResult
  | 0, s => .notOver s
  | n + 1, s =>
    if s.trapPhase = .idle ∧ s.running = false then .halted s
    else
      match step s with
      | .next t => if t.status = some .cancelled then .cancelled t else runLoop n t
      | .fault r => nomatch r
      | .refused _ => .notOver s

/-- `Run` (70_reset_and_hazards.md R219): `running` is set, then the loop. -/
def run (n : Nat) (s : State) : RunResult := runLoop n (s.setRunning true)

end Sys2Proof.Machine
end

