-- ==== Sys2Proof/Safety.lean ====
section
/-! DEFINITION. The terms claims are stated in: the invariant of the core, and what an instruction leaves
unchanged. -/

namespace Sys2Proof.Machine

/-- The invariant every step keeps. It holds at reset. -/
structure State.Inv (s : State) : Prop where
  /-- The memory has its canonical form. -/
  mem : s.mem.wf = true
  /-- The trap table has its canonical form. -/
  tt : s.tt.wf = true
  /-- While a TRAP is in T3, Step has not returned (43_reserved_and_trap.md R154). -/
  inT3 : s.trapPhase ≠ .idle → s.status = none
  /-- "In lenient mode it is never written" (10_state.md R31). -/
  lenient : s.cfg.strict = false → s.diag = none
  /-- The recorded word of a reserved opcode has opcode 8 or 13 (60_exceptions.md R180). -/
  reserved : ∀ w, s.diag = some (.reservedOpcode w) →
    w.extractLsb' 12 4 = 0b1000#4 ∨ w.extractLsb' 12 4 = 0b1101#4

/-- `f` is the flag of the 16-bit value `v` (10_state.md R26), said without the model's function. -/
def FlagOf (v : Word) (f : Flag) : Prop :=
  (f = .z ↔ v = 0x0000#16) ∧ (f = .n ↔ v.getLsbD 15 = true) ∧
    (f = .p ↔ v ≠ 0x0000#16 ∧ v.getLsbD 15 = false)

/-- Every register but those listed holds what it held. -/
def RegsSameBut (changed : List RegId) (s t : State) : Prop := ∀ r, r ∉ changed → t.reg r = s.reg r

/-- Every memory cell but those listed holds what it held. -/
def CellsSameBut (changed : List Word) (s t : State) : Prop := ∀ a, a ∉ changed → t.cell a = s.cell a

/-- The parameters, the run flag, the diagnostic, the trap table, the trap phase, the status of the Step, the
hook and the count of host calls are unchanged. -/
structure SameControl (s t : State) : Prop where
  cfg : t.cfg = s.cfg
  running : t.running = s.running
  diag : t.diag = s.diag
  tt : t.tt = s.tt
  trapPhase : t.trapPhase = s.trapPhase
  status : t.status = s.status
  hook : t.hook = s.hook
  hostCalls : t.hostCalls = s.hostCalls

/-- Neither the keyboard nor the output was touched. -/
structure SameDevices (s t : State) : Prop where
  keys : t.keys = s.keys
  output : t.output = s.output

/-- What a TRAP to GETC or IN keeps while it waits and when it completes: the parameters, the run flag, the
diagnostic, the trap table, the hook and the count of host calls. -/
structure SameHostSide (s t : State) : Prop where
  cfg : t.cfg = s.cfg
  running : t.running = s.running
  diag : t.diag = s.diag
  tt : t.tt = s.tt
  hook : t.hook = s.hook
  hostCalls : t.hostCalls = s.hostCalls

/-- `t` is `s` with `v` in `dr` and in the flags, and nothing else changed: the effect of an instruction that
computes a register from registers. -/
structure WroteResult (dr : RegId) (v : Word) (s t : State) : Prop where
  dest : t.reg dr = v
  regs : RegsSameBut [dr] s t
  cc : FlagOf v t.cc
  pc : t.pc = s.pc
  cells : CellsSameBut [] s t
  control : SameControl s t
  devices : SameDevices s t

/-- `t` is `s` after a word was read through the I/O decoder at `a` and written to `dr` and the flags: the
memory and the keyboard are as that read left them. -/
structure LoadedFrom (a : Word) (dr : RegId) (s t : State) : Prop where
  dest : t.reg dr = (memRead s a).1
  regs : RegsSameBut [dr] s t
  cc : FlagOf (memRead s a).1 t.cc
  pc : t.pc = s.pc
  cells : CellsSameBut [] (memRead s a).2 t
  keys : t.keys = (memRead s a).2.keys
  output : t.output = s.output
  control : SameControl s t

/-- `t` is `s` with `v` stored at `a`, and nothing else changed. -/
structure Stored (a v : Word) (s t : State) : Prop where
  stored : t.cell a = v
  cells : CellsSameBut [a] s t
  regs : RegsSameBut [] s t
  cc : t.cc = s.cc
  pc : t.pc = s.pc
  control : SameControl s t
  devices : SameDevices s t

/-- `t` is `s` with pc at `target` and the registers listed written elsewhere said, and nothing else changed. -/
structure Jumped (target : Word) (written : List RegId) (s t : State) : Prop where
  pc : t.pc = target
  regs : RegsSameBut written s t
  cc : t.cc = s.cc
  cells : CellsSameBut [] s t
  control : SameControl s t
  devices : SameDevices s t

/-- What a TRAP leaves unchanged whatever its routine does within the contract of the architected ones that
neither halt nor write memory (44_trap_routines.md R160, R168): R7 holds the return address, pc is back at
it, the Step is over, and registers other than R7 and those listed are unchanged. -/
structure TrapReturned (written : List RegId) (s t : State) : Prop where
  r7 : t.reg 7 = s.pc
  pc : t.pc = s.pc
  regs : RegsSameBut (7 :: written) s t
  control : SameControl s t

/-- A TRAP whose slot holds a routine of the host: the one instruction whose effect is a free value. -/
def IsHostTrap (i : Instr) (s : State) : Prop := ∃ v id, i = .trap v ∧ s.tt.lookup v = some (.host id)

/-- The general registers an instruction may write (10_state.md R21, the table's last column; for TRAP the
entry and the architected routines together). -/
def mayWriteRegs : Instr → List RegId
  | .addReg dr _ _ => [dr]
  | .addImm dr _ _ => [dr]
  | .andReg dr _ _ => [dr]
  | .andImm dr _ _ => [dr]
  | .notReg dr _ => [dr]
  | .ld dr _ => [dr]
  | .ldi dr _ => [dr]
  | .ldr dr _ _ => [dr]
  | .lea dr _ => [dr]
  | .jsr _ => [7]
  | .jsrr _ => [7]
  | .trap _ => [7, 0]
  | .br _ _ => []
  | .jmp _ => []
  | .st _ _ => []
  | .sti _ _ => []
  | .str _ _ _ => []
  | .res _ => []
  | .rti _ => []

/-- The instructions that store a register to memory (42_load_store.md R134 to R136). -/
def isStore : Instr → Bool
  | .st _ _ => true
  | .sti _ _ => true
  | .str _ _ _ => true
  | .br _ _ => false
  | .addReg _ _ _ => false
  | .addImm _ _ _ => false
  | .ld _ _ => false
  | .jsr _ => false
  | .jsrr _ => false
  | .andReg _ _ _ => false
  | .andImm _ _ _ => false
  | .ldr _ _ _ => false
  | .rti _ => false
  | .notReg _ _ => false
  | .ldi _ _ => false
  | .jmp _ => false
  | .res _ => false
  | .lea _ _ => false
  | .trap _ => false

/-- The instructions that set the condition flags from a result (10_state.md R27), TRAP apart. -/
def setsFlags : Instr → Bool
  | .addReg _ _ _ => true
  | .addImm _ _ _ => true
  | .andReg _ _ _ => true
  | .andImm _ _ _ => true
  | .notReg _ _ => true
  | .ld _ _ => true
  | .ldi _ _ => true
  | .ldr _ _ _ => true
  | .lea _ _ => true
  | .br _ _ => false
  | .st _ _ => false
  | .jsr _ => false
  | .jsrr _ => false
  | .str _ _ _ => false
  | .rti _ => false
  | .sti _ _ => false
  | .jmp _ => false
  | .res _ => false
  | .trap _ => false

/-- The instructions that write pc (10_state.md R23), TRAP apart, which writes back the return address. -/
def writesPc : Instr → Bool
  | .br _ _ => true
  | .jmp _ => true
  | .jsr _ => true
  | .jsrr _ => true
  | .addReg _ _ _ => false
  | .addImm _ _ _ => false
  | .ld _ _ => false
  | .st _ _ => false
  | .andReg _ _ _ => false
  | .andImm _ _ _ => false
  | .ldr _ _ _ => false
  | .str _ _ _ => false
  | .rti _ => false
  | .notReg _ _ => false
  | .ldi _ _ => false
  | .sti _ _ => false
  | .res _ => false
  | .lea _ _ => false
  | .trap _ => false

/-- The cell `k` words after `a`, modulo 65536. -/
def wordAt (a : Word) (k : Nat) : Word := a + BitVec.ofNat 16 k

/-- From `a` on, memory holds the words `ws` and then `last`, and none of these cells is KBSR: a string a scan
can read without polling the keyboard. It is shorter than the memory. -/
structure StringAt (s : State) (a : Word) (ws : List Word) (last : Word) : Prop where
  short : ws.length < 65536
  words : ∀ k (h : k < ws.length), s.cell (wordAt a k) = ws[k]
  last : s.cell (wordAt a ws.length) = last
  away : ∀ k, k ≤ ws.length → wordAt a k ≠ s.cfg.kbsrAddr

end Sys2Proof.Machine
end

