-- ==== Sys2Proof/WellFormed.lean ====
section
/-! DEFINITION. The spelling of instructions (30_encoding.md R100, R101) with the check that a spelled
instruction can be encoded (R102): register numbers 0 to 7, immediates and offsets in the range of R86,
vectors 0 to 255. The operands of `Instr` have exactly these ranges by their types, so the check
stands where it can fail: between a spelled instruction and an `Instr`. -/

namespace Sys2Proof

/-- A spelled instruction (30_encoding.md R100): numbers as they are written, not yet known to fit. -/
inductive Spelled where
  | br (n z p : Bool) (off : Int)
  | addReg (dr sr1 sr2 : Nat)
  | addImm (dr sr1 : Nat) (imm : Int)
  | ld (dr : Nat) (off : Int)
  | st (sr : Nat) (off : Int)
  | jsr (off : Int)
  | jsrr (baseR : Nat)
  | andReg (dr sr1 sr2 : Nat)
  | andImm (dr sr1 : Nat) (imm : Int)
  | ldr (dr baseR : Nat) (off : Int)
  | str (sr baseR : Nat) (off : Int)
  | rti
  | notReg (dr sr1 : Nat)
  | ldi (dr : Nat) (off : Int)
  | sti (sr : Nat) (off : Int)
  | jmp (baseR : Nat)
  | res
  | lea (dr : Nat) (off : Int)
  | trap (vector : Nat)
  deriving DecidableEq, Repr

namespace Spelled

/-- R0 to R7 (30_encoding.md R100). -/
def isReg (r : Nat) : Bool := r < 8

/-- The range of the signed reading of an `N`-bit field (30_encoding.md R86), for `N` at least 1. -/
def fits (N : Nat) (v : Int) : Bool := -(2 ^ (N - 1) : Int) ≤ v && v < (2 ^ (N - 1) : Int)

/-- The spelled instruction can be encoded (30_encoding.md R102): "The spelled offset must lie in the
range of rule R86; a larger one cannot be encoded." -/
def wellFormed : Spelled → Bool
  | .br _ _ _ off => fits 9 off
  | .addReg dr sr1 sr2 => isReg dr && isReg sr1 && isReg sr2
  | .addImm dr sr1 imm => isReg dr && isReg sr1 && fits 5 imm
  | .ld dr off => isReg dr && fits 9 off
  | .st sr off => isReg sr && fits 9 off
  | .jsr off => fits 11 off
  | .jsrr baseR => isReg baseR
  | .andReg dr sr1 sr2 => isReg dr && isReg sr1 && isReg sr2
  | .andImm dr sr1 imm => isReg dr && isReg sr1 && fits 5 imm
  | .ldr dr baseR off => isReg dr && isReg baseR && fits 6 off
  | .str sr baseR off => isReg sr && isReg baseR && fits 6 off
  | .rti => true
  | .notReg dr sr1 => isReg dr && isReg sr1
  | .ldi dr off => isReg dr && fits 9 off
  | .sti sr off => isReg sr && fits 9 off
  | .jmp baseR => isReg baseR
  | .res => true
  | .lea dr off => isReg dr && fits 9 off
  | .trap vector => vector < 256

/-- The register number of a spelled register. -/
def regOf (r : Nat) : RegId := Fin.ofNat 8 r

/-- "for a signed immediate or offset `n` of width `N` the value `n mod 2^N`" (30_encoding.md R102). -/
def fieldOf (N : Nat) (v : Int) : BitVec N := BitVec.ofInt N v

/-- The instruction a spelled one stands for, refused where the check fails. Ignored bits are 0 (R102). -/
def assemble (i : Spelled) : Option Instr :=
  if i.wellFormed then
    some (match i with
      | .br n z p off => .br (BitVec.ofBool n ++ BitVec.ofBool z ++ BitVec.ofBool p) (fieldOf 9 off)
      | .addReg dr sr1 sr2 => .addReg (regOf dr) (regOf sr1) (regOf sr2)
      | .addImm dr sr1 imm => .addImm (regOf dr) (regOf sr1) (fieldOf 5 imm)
      | .ld dr off => .ld (regOf dr) (fieldOf 9 off)
      | .st sr off => .st (regOf sr) (fieldOf 9 off)
      | .jsr off => .jsr (fieldOf 11 off)
      | .jsrr baseR => .jsrr (regOf baseR)
      | .andReg dr sr1 sr2 => .andReg (regOf dr) (regOf sr1) (regOf sr2)
      | .andImm dr sr1 imm => .andImm (regOf dr) (regOf sr1) (fieldOf 5 imm)
      | .ldr dr baseR off => .ldr (regOf dr) (regOf baseR) (fieldOf 6 off)
      | .str sr baseR off => .str (regOf sr) (regOf baseR) (fieldOf 6 off)
      | .rti => .rti 0#12
      | .notReg dr sr1 => .notReg (regOf dr) (regOf sr1)
      | .ldi dr off => .ldi (regOf dr) (fieldOf 9 off)
      | .sti sr off => .sti (regOf sr) (fieldOf 9 off)
      | .jmp baseR => .jmp (regOf baseR)
      | .res => .res 0#12
      | .lea dr off => .lea (regOf dr) (fieldOf 9 off)
      | .trap vector => .trap (BitVec.ofNat 8 vector))
  else none

/-- The spelling of an instruction (30_encoding.md R100): registers and vector as numbers, the mask as its bits
n, z, p, an immediate or offset as the signed reading of its field (R86). RES and RTI have no operand. -/
def ofInstr : Instr → Spelled
  | .br nzp off9 => .br (nzp.getLsbD 2) (nzp.getLsbD 1) (nzp.getLsbD 0) off9.toInt
  | .addReg dr sr1 sr2 => .addReg dr.val sr1.val sr2.val
  | .addImm dr sr1 imm5 => .addImm dr.val sr1.val imm5.toInt
  | .ld dr off9 => .ld dr.val off9.toInt
  | .st sr off9 => .st sr.val off9.toInt
  | .jsr off11 => .jsr off11.toInt
  | .jsrr baseR => .jsrr baseR.val
  | .andReg dr sr1 sr2 => .andReg dr.val sr1.val sr2.val
  | .andImm dr sr1 imm5 => .andImm dr.val sr1.val imm5.toInt
  | .ldr dr baseR off6 => .ldr dr.val baseR.val off6.toInt
  | .str sr baseR off6 => .str sr.val baseR.val off6.toInt
  | .rti _ => .rti
  | .notReg dr sr1 => .notReg dr.val sr1.val
  | .ldi dr off9 => .ldi dr.val off9.toInt
  | .sti sr off9 => .sti sr.val off9.toInt
  | .jmp baseR => .jmp baseR.val
  | .res _ => .res
  | .lea dr off9 => .lea dr.val off9.toInt
  | .trap trapvect8 => .trap trapvect8.toNat

/-- RET = JMP R7 (30_encoding.md R101). -/
abbrev ret : Spelled := .jmp 7
/-- NOP = 0x0000, BR with an empty mask (30_encoding.md R93, R101). -/
abbrev nop : Spelled := .br false false false 0
/-- GETC = TRAP x20, and so on for the names of the architected routines (30_encoding.md R101). -/
abbrev getc : Spelled := .trap 0x20
abbrev out : Spelled := .trap 0x21
abbrev puts : Spelled := .trap 0x22
abbrev input : Spelled := .trap 0x23
abbrev putsp : Spelled := .trap 0x24
abbrev halt : Spelled := .trap 0x25

end Spelled

end Sys2Proof
end

