-- ==== Sys2Proof/Certificates/Slice0/Obligations.lean ====
section
/-! DEFINITION. The statements for the provers, from the numbered rules of spec/. A statement's docstring says what
it states and names the choice of the spec or of the model it rests on. -/

open Sys2Proof Sys2Proof.Machine

/-- O1 (30_encoding.md sections 2, 4 and 6, 92_eei_decisions.md D1). For every instruction, with every operand at
every value its field admits, decoding its encoding gives the instruction back. The opcode numbers other than
TRAP's are the spec's own choice (92_eei_decisions.md D1; log 1). -/
def Obligations.DecodeUndoesEncode : Prop :=
  ∀ i : Instr, decode (encode i) = i

/-- O2 (30_encoding.md sections 1 and 4, INDEX.md, Files, 92_eei_decisions.md D1). For every 16-bit word, the row
of the instruction it decodes to is one of the 19 rows of the opcode table and admits the word, and no other
row admits it. The opcode numbers are the spec's own choice (92_eei_decisions.md D1; log 1). -/
def Obligations.EveryWordHasExactlyOneRow : Prop :=
  ∀ w : Word, (decode w).row ∈ opcodeRows ∧ (decode w).row.admits w ∧
    ∀ r ∈ opcodeRows, r.admits w → r = (decode w).row

/-- O3 (30_encoding.md section 2, 92_eei_decisions.md D7). If two words agree outside the bits the decoder ignores
for the first one's instruction, they decode to the same instruction. That these bits are ignored is the
spec's own decision (92_eei_decisions.md D7; log 17); bits 11:0 of RES and RTI are kept by the model because
the diagnostic records them (log 14). -/
def Obligations.IgnoredBitsDoNotMatter : Prop :=
  ∀ w w' : Word, w &&& ~~~(decode w).ignored = w' &&& ~~~(decode w).ignored → decode w' = decode w

/-- O4 (95_test_vectors.md V2, 30_encoding.md section 4). Words of table V2 of 95_test_vectors.md, at least one of
every family, decode to the instructions named there. Their opcode numbers are the spec's own choice
(92_eei_decisions.md D1; log 1). -/
def Obligations.WordsOfTheSpecDecode : Prop :=
  decode 0x1443#16 = .addReg 2 1 3 ∧ decode 0x127F#16 = .addImm 1 1 0x1F#5 ∧
  decode 0x92BF#16 = .notReg 1 2 ∧ decode 0x0402#16 = .br 0b010#3 0x002#9 ∧
  decode 0x40C0#16 = .jsrr 3 ∧ decode 0x4802#16 = .jsr 0x002#11 ∧
  decode 0x62BF#16 = .ldr 1 2 0x3F#6 ∧ decode 0x7283#16 = .str 1 2 0x03#6 ∧
  decode 0xB202#16 = .sti 1 0x002#9 ∧ decode 0x8ABC#16 = .rti 0xABC#12 ∧ decode 0xF025#16 = .trap 0x25#8

/-- O5 (R86). For each offset width N in 5, 6, 9, 11: a field whose top bit is 0 extends to the same number, and
one whose top bit is 1 extends to (field - 2^N) modulo 65536. The example: 0x1F over 5 bits is 0xFFFF. -/
def Obligations.SignExtensionSubtractsTwoToTheN : Prop :=
  (∀ f : BitVec 5, sext5 f = BitVec.ofInt 16 (if f.getLsbD 4 then (f.toNat : Int) - 2 ^ 5 else f.toNat)) ∧
  (∀ f : BitVec 6, sext6 f = BitVec.ofInt 16 (if f.getLsbD 5 then (f.toNat : Int) - 2 ^ 6 else f.toNat)) ∧
  (∀ f : BitVec 9, sext9 f = BitVec.ofInt 16 (if f.getLsbD 8 then (f.toNat : Int) - 2 ^ 9 else f.toNat)) ∧
  (∀ f : BitVec 11, sext11 f = BitVec.ofInt 16 (if f.getLsbD 10 then (f.toNat : Int) - 2 ^ 11 else f.toNat)) ∧
  sext5 0x1F#5 = 0xFFFF#16

/-- O6 (30_encoding.md section 6, 92_eei_decisions.md D26). A spelled instruction, of every form, assembles
exactly when it is well formed. The instruction it assembles to, spelled again with its registers as numbers,
its immediate or offset as the signed reading of its field, its mask bits n, z and p and its vector as a
number, is the very spelling it came from: no number is changed by encoding. Every instruction's spelling is
well formed, so no number a field can hold is refused, and it assembles to that instruction again, the low 12
bits of RES and RTI being 0. A number in the signed range of an N-bit field is the signed reading of the field
it is put in. The spelling is the spec's own (92_eei_decisions.md D26). -/
def Obligations.SpelledInstructionsFitOrAreRefused : Prop :=
  (∀ i : Spelled, (∃ j, i.assemble = some j) ↔ i.wellFormed = true) ∧
  (∀ (i : Spelled) (j : Instr), i.assemble = some j → Spelled.ofInstr j = i) ∧
  (∀ j : Instr, (Spelled.ofInstr j).wellFormed = true ∧
    ((∀ low, j ≠ .res low) → (∀ low, j ≠ .rti low) → (Spelled.ofInstr j).assemble = some j)) ∧
  Spelled.res.assemble = some (.res 0x000#12) ∧ Spelled.rti.assemble = some (.rti 0x000#12) ∧
  (∀ (N : Nat) (v : Int), 0 < N → Spelled.fits N v = true → (Spelled.fieldOf N v).toInt = v)

/-- O7 (10_state.md section 6, 20_memory.md section 2). When no TRAP is in T3 and the hook does not cancel, and
the word read at pc through the I/O decoder decodes to i, step is exec of i on the state after that read with
pc incremented, one hook answer used up, and the status of the Step set to continued until the instruction
says otherwise. -/
def Obligations.StepRunsTheDecodedInstruction : Prop :=
  ∀ (s : State) (i : Instr), s.trapPhase = .idle → s.hook.head? ≠ some .cancel →
    decode (memRead s s.pc).1 = i →
    step s = exec i ((((memRead s s.pc).2.setPc (s.pc + 1)).setStatus (some .continued)).setHook s.hook.tail)

/-- O8 (10_state.md section 6, 70_reset_and_hazards.md section 3, 92_eei_decisions.md D21). When no TRAP is in T3
and the hook answers cancel, the step reads at pc through the I/O decoder, increments pc, returns cancelled
and uses up the answer; registers, flags, run flag, diagnostic, output and trap table keep their values and
the memory and the keyboard are as the fetch left them. The spec's own decision (92_eei_decisions.md D21; log
29). -/
def Obligations.CancelledStepSkipsTheInstruction : Prop :=
  ∀ s : State, s.trapPhase = .idle → s.hook.head? = some .cancel →
    ∃ t, step s = .next t ∧ t.pc = s.pc + 1 ∧ t.status = some .cancelled ∧ t.hook = s.hook.tail ∧
      RegsSameBut [] s t ∧ t.cc = s.cc ∧ t.running = s.running ∧ t.diag = s.diag ∧ t.tt = s.tt ∧
      t.output = s.output ∧ t.trapPhase = .idle ∧ t.keys = (memRead s s.pc).2.keys ∧
      CellsSameBut [] (memRead s s.pc).2 t

/-- O9 (60_exceptions.md section 1, 43_reserved_and_trap.md, the trap dispatch state machine). Every instruction,
on every state, and so every step, answers a next state: no memory address, instruction word, arithmetic
overflow, write to a keyboard address, data executed as code, or string without terminator faults. That a GETC
or IN that waits and a PUTS that has not met its terminator answer a next state too, one in phase T3, is the
model's own form of a Step that is not complete (log 6, 7). -/
def Obligations.NothingStopsTheMachine : Prop :=
  (∀ (i : Instr) (s : State), ∃ t, exec i s = .next t) ∧ (∀ s : State, ∃ t, step s = .next t)

/-- O10 (10_state.md section 5, 43_reserved_and_trap.md, the trap dispatch state machine, 60_exceptions.md section
1). From every state whose memory and trap table are in canonical form, whose Step has not returned while a
TRAP is in T3, whose diagnostic is none in lenient mode, and whose diagnostic, if it names a reserved opcode,
holds a word of opcode 8 or 13, a step leads to a state of which the same holds. The canonical forms are the
model's own (log 12, 25), the T3 clause too (log 6), and the diagnostic rests on 92_eei_decisions.md D12. -/
def Obligations.StepKeepsTheInvariant : Prop :=
  ∀ s t : State, s.Inv → step s = .next t → t.Inv

/-- O11 (10_state.md section 8). The state after reset has the invariant every step keeps. -/
def Obligations.ResetHasTheInvariant : Prop :=
  State.reset.Inv

/-- O12 (00_scope.md section 4, 10_state.md section 5, 44_trap_routines.md). Whatever a step does, the parameters
of the core and its trap table stay as they were: only host commands write the table. That a routine of the
host cannot write them either is the model's reading of its contract (log 8). -/
def Obligations.StepKeepsParametersAndTrapTable : Prop :=
  ∀ s t : State, step s = .next t → t.cfg = s.cfg ∧ t.tt = s.tt

/-- O13 (10_state.md section 5, 60_exceptions.md section 1, 44_trap_routines.md, 92_eei_decisions.md D11, D12). A
step never sets the run flag; it never writes the diagnostic in lenient mode; where the diagnostic changes it
names a fault, the run flag is cleared and the Step returns halted; and a Step that returns halted leaves the
run flag false. The diagnostic register is the spec's own decision (92_eei_decisions.md D11, D12; log 15).
That a routine of the host may clear the run flag and has no way to set it, write the diagnostic or make the
Step return halted is the model's reading of its contract (log 8, 31). -/
def Obligations.RunningAndDiagnosticDiscipline : Prop :=
  ∀ s t : State, step s = .next t →
    (t.running = true → s.running = true) ∧
    (s.cfg.strict = false → t.diag = s.diag) ∧
    (t.diag ≠ s.diag → t.diag ≠ none ∧ t.running = false ∧ t.status = some .halted) ∧
    (t.status = some .halted → t.running = false)

/-- O14 (00_scope.md section 5, 10_state.md section 7, 44_trap_routines.md, 92_eei_decisions.md D33). If a step
leads from s to t, the output of t is that of s with characters appended; and from s with any other output,
the step leads to t with the same characters appended to that output. That the stream is never full is the
spec's own decision (92_eei_decisions.md D33; log 13). For a TRAP to a routine of the host it rests on what
the model lets such a routine see and do: the output is not in its view, and it can only append (log 8). -/
def Obligations.OutputIsAppendedAndNeverRead : Prop :=
  ∀ (s t : State) (o : List Byte), step s = .next t →
    ∃ cs, t.output = s.output ++ cs ∧ step { s with output := o } = .next { t with output := o ++ cs }

/-- O15 (00_scope.md section 5, 93_implementation_defined.md I6, I8, 44_trap_routines.md). After a step, the
answers the keyboard and the hook still have to give are a last part of those they had: answers are used in
order, none is invented, and a step uses at most one answer of the hook. The lists are the model's form of the
spec's free inputs (log 5, 9), and a routine of the host takes its keys from the same list (log 8). -/
def Obligations.KeyboardAnswersAreUsedInOrder : Prop :=
  ∀ s t : State, step s = .next t → t.keys <:+ s.keys ∧ (t.hook = s.hook ∨ t.hook = s.hook.tail)

/-- O16 (10_state.md section 3, 44_trap_routines.md). For every instruction that is neither BR nor a TRAP to a
routine of the host: run from two states that differ only in the flags, it leads to two states that differ at
most in the flags. What a routine of the host reads is its own affair (log 8). -/
def Obligations.OnlyBranchReadsTheFlags : Prop :=
  ∀ (i : Instr) (s : State) (f : Flag), (∀ nzp off9, i ≠ .br nzp off9) → ¬ IsHostTrap i s →
    ∃ t g, exec i s = .next t ∧ exec i (s.setCc f) = .next (t.setCc g)

/-- O17 (10_state.md section 1, 44_trap_routines.md). For every instruction but a TRAP to a routine of the host,
only the registers the table of 10_state.md section 1 gives it are written: the destination of an operate
instruction, load or LEA, R7 for JSR, JSRR and TRAP, and R0 for the architected routines; BR, JMP, the stores,
RES and RTI write none. -/
def Obligations.RegistersNotNamedAreKept : Prop :=
  ∀ (i : Instr) (s t : State), ¬ IsHostTrap i s → exec i s = .next t → RegsSameBut (mayWriteRegs i) s t

/-- O18 (10_state.md sections 2 and 3, 92_eei_decisions.md D16). Every instruction that is not listed as setting
the flags keeps them, TRAP apart; every instruction that is not a control transfer keeps pc at the incremented
value, TRAP to an architected or unbound slot included; and TRAP keeps the flags where its slot is unbound or
holds OUT, PUTS, PUTSP or HALT. Silence read as no flag update is the spec's own decision (92_eei_decisions.md
D16; log 20). -/
def Obligations.FlagsAndPcNotNamedAreKept : Prop :=
  ∀ (i : Instr) (s t : State), exec i s = .next t →
    (setsFlags i = false → (∀ v, i ≠ .trap v) → t.cc = s.cc) ∧
    (writesPc i = false → ¬ IsHostTrap i s → t.pc = s.pc) ∧
    (∀ v, i = .trap v → s.tt.lookup v ∈ [none, some .out, some .puts, some .putsp, some .halt] → t.cc = s.cc)

/-- O19 (20_memory.md sections 2 and 6, 44_trap_routines.md). For every instruction that is not ST, STI or STR nor
a TRAP to a routine of the host, every cell but those of KBSR and KBDR reads as before. Every cell reads as
before, and the keyboard keeps its answers unless a TRAP is run, when the instruction is of a form that makes
no read (the operate and control instructions, LEA, RES, RTI), an LD or LDR whose address is not KBSR, an LDI
neither of whose addresses is KBSR, or a TRAP whose slot holds neither PUTS nor PUTSP. For those two, whose
reads depend on the string, the same is said of strings away from KBSR in PutsWritesTheString and
PutspWritesThePackedString. -/
def Obligations.OnlyStoresWriteMemory : Prop :=
  ∀ (i : Instr) (s t : State), isStore i = false → ¬ IsHostTrap i s → exec i s = .next t →
    CellsSameBut [s.cfg.kbsrAddr, s.cfg.kbdrAddr] s t ∧
    ((∀ dr off9, i = .ld dr off9 → pcRelative s off9 ≠ s.cfg.kbsrAddr) →
      (∀ dr off9, i = .ldi dr off9 →
        pcRelative s off9 ≠ s.cfg.kbsrAddr ∧ s.cell (pcRelative s off9) ≠ s.cfg.kbsrAddr) →
      (∀ dr baseR off6, i = .ldr dr baseR off6 → basePlusOffset s baseR off6 ≠ s.cfg.kbsrAddr) →
      (∀ v, i = .trap v → s.tt.lookup v ≠ some .puts ∧ s.tt.lookup v ≠ some .putsp) →
      CellsSameBut [] s t ∧ ((∀ v, i ≠ .trap v) → SameDevices s t))

/-- O20 (R20). Writing v to register i makes it read v, whichever register it is, and leaves the other seven as
they were; after reset every register reads 0x0000. -/
def Obligations.RegistersHoldWhatWasLastWritten : Prop :=
  (∀ (s : State) (i j : RegId) (v : Word), (s.setReg i v).reg j = if j = i then v else s.reg j) ∧
  (∀ i : RegId, State.reset.reg i = 0x0000#16)

/-- O21 (10_state.md section 3, 44_trap_routines.md, 92_eei_decisions.md D15). setcc of a value makes the flag
register Z when the value is 0x0000, N when its bit 15 is 1, and P otherwise, exactly one of the three, and
changes nothing else. After every instruction that sets the flags (ADD, AND, NOT, LD, LDI, LDR, LEA, in each
form) the flag is that of the final value of its one destination register; after a TRAP to GETC that
completes, or to IN that completes with IN_SETS_FLAGS true, it is that of R0. The flags of IN are the spec's
own decision (92_eei_decisions.md D15; log 16). -/
def Obligations.SetccChoosesExactlyOneFlag : Prop :=
  (∀ (v : Word) (s : State), FlagOf v (setcc v s).cc ∧ setcc v s = s.setCc (setcc v s).cc) ∧
  (∀ (i : Instr) (s t : State), setsFlags i = true → exec i s = .next t →
    ∃ dr, mayWriteRegs i = [dr] ∧ FlagOf (t.reg dr) t.cc) ∧
  (∀ (v : BitVec 8) (s t : State), exec (.trap v) s = .next t → t.trapPhase = .idle →
    s.tt.lookup v = some .getc ∨ (s.tt.lookup v = some .input ∧ s.cfg.inSetsFlags = true) →
    FlagOf (t.reg 0) t.cc)

/-- O22 (R55). Writing v at address a makes that cell read v and leaves every other cell, the registers, the
flags, the keyboard, the output and the control state as they were, whatever address a is. -/
def Obligations.MemWriteIsAPlainStore : Prop :=
  ∀ (s : State) (a v : Word), Stored a v s (memWrite s a v)

/-- O23 (20_memory.md sections 2 and 3, 92_eei_decisions.md D4). A read of an address other than KBSR_ADDR answers
the cell's content and leaves the state as it was. That KBDR is such an address rests on 92_eei_decisions.md
D4 (log 4). -/
def Obligations.ReadAwayFromStatusIsPlain : Prop :=
  ∀ (s : State) (a : Word), a ≠ s.cfg.kbsrAddr → memRead s a = (s.cell a, s)

/-- O24 (20_memory.md section 2, 92_eei_decisions.md D4, D31). With the two keyboard addresses different: when a
key is waiting, a read of KBSR answers 0x8000, stores 0x8000 in the status cell and the zero-extended key in
the data cell, and takes the key; when none is waiting it answers 0x0000, stores 0x0000 in the status cell and
leaves the data cell. Every other cell and all other state is kept. The spec's own decision
(92_eei_decisions.md D4; log 4); an empty list of answers to come counts as no key waiting (log 5). -/
def Obligations.ReadOfStatusPollsTheKeyboard : Prop :=
  ∀ s : State, s.cfg.kbsrAddr ≠ s.cfg.kbdrAddr →
    ∃ t v, memRead s s.cfg.kbsrAddr = (v, t) ∧ t.cell s.cfg.kbsrAddr = v ∧ RegsSameBut [] s t ∧ t.cc = s.cc ∧
      t.pc = s.pc ∧ SameControl s t ∧ t.output = s.output ∧
      (∀ c rest, s.keys = some c :: rest → v = 0x8000#16 ∧ t.cell s.cfg.kbdrAddr = c.setWidth 16 ∧ t.keys = rest ∧
        CellsSameBut [s.cfg.kbsrAddr, s.cfg.kbdrAddr] s t) ∧
      (∀ rest, s.keys = none :: rest → v = 0x0000#16 ∧ t.keys = rest ∧ CellsSameBut [s.cfg.kbsrAddr] s t) ∧
      (s.keys = [] → v = 0x0000#16 ∧ t.keys = [] ∧ CellsSameBut [s.cfg.kbsrAddr] s t)

/-- O25 (10_state.md section 4). The canonical form holds each content of the 65536 cells in exactly one way. The
form is the model's own (log 12). -/
def Obligations.EqualCellsAreEqualMemories : Prop :=
  ∀ m m' : Memory, m.wf = true → m'.wf = true → (∀ a : Word, m.read a = m'.read a) → m = m'

/-- O26 (20_memory.md section 5). After a store of v at an address other than KBSR_ADDR, a fetch with pc at that
address gets v. -/
def Obligations.StoredWordIsTheNextFetched : Prop :=
  ∀ (s : State) (a v : Word), a ≠ s.cfg.kbsrAddr → (fetch ((memWrite s a v).setPc a)).1 = v

/-- O27 (42_load_store.md, addressing modes, 30_encoding.md section 3, 92_eei_decisions.md D29). The PC-relative
address is the incremented pc plus the signed offset of 9 bits, the base-plus-offset address is the base
register plus the signed offset of 6 bits, and the target of JSR is the incremented pc plus the signed offset
of 11 bits, each modulo 65536; the indirect address is the word read through the I/O decoder at the PC-
relative address. The wrap of sums with pc is the spec's own decision (92_eei_decisions.md D29; log 19). -/
def Obligations.AddressesAreSignedSumsModulo65536 : Prop :=
  ∀ (s : State) (off9 : BitVec 9) (off6 : BitVec 6) (off11 : BitVec 11) (baseR : RegId),
    ((pcRelative s off9).toNat : Int) = ((s.pc.toNat : Int) + off9.toInt) % 65536 ∧
    ((basePlusOffset s baseR off6).toNat : Int) = (((s.reg baseR).toNat : Int) + off6.toInt) % 65536 ∧
    ((callTarget s off11).toNat : Int) = ((s.pc.toNat : Int) + off11.toInt) % 65536 ∧
    indirect s off9 = memRead s (pcRelative s off9)

/-- O28 (40_operate.md, ADD). ADD register form completes on every state: the destination gets the sum of the two
sources, both read before the write, modulo 65536; the flags are set from it; every other register, pc,
memory, the keyboard, the output and the control state are unchanged. -/
def Obligations.AddRegisterForm : Prop :=
  ∀ (dr sr1 sr2 : RegId) (s : State), ∃ t, exec (.addReg dr sr1 sr2) s = .next t ∧
    WroteResult dr (BitVec.ofNat 16 (((s.reg sr1).toNat + (s.reg sr2).toNat) % 65536)) s t

/-- O29 (40_operate.md, ADD). ADD immediate form completes on every state: the destination gets the source plus
the sign-extended 5-bit immediate modulo 65536; the flags are set from it; every other register, pc, memory,
the keyboard, the output and the control state are unchanged. -/
def Obligations.AddImmediateForm : Prop :=
  ∀ (dr sr1 : RegId) (imm5 : BitVec 5) (s : State), ∃ t, exec (.addImm dr sr1 imm5) s = .next t ∧
    WroteResult dr (BitVec.ofInt 16 (((s.reg sr1).toNat : Int) + imm5.toInt)) s t

/-- O30 (40_operate.md, AND). AND register form completes on every state: bit k of the destination is 1 exactly
when bit k of both sources is 1; the flags are set from the result; every other register, pc, memory, the
keyboard, the output and the control state are unchanged. -/
def Obligations.AndRegisterForm : Prop :=
  ∀ (dr sr1 sr2 : RegId) (s : State), ∃ t r, exec (.andReg dr sr1 sr2) s = .next t ∧
    (∀ k, k < 16 → r.getLsbD k = ((s.reg sr1).getLsbD k && (s.reg sr2).getLsbD k)) ∧
    WroteResult dr r s t

/-- O31 (40_operate.md, AND). AND immediate form completes on every state: bit k of the destination is 1 exactly
when bit k of the source is 1 and bit k of the immediate is, bit 4 of the immediate standing for the bits
above it; the flags are set from the result; every other register, pc, memory, the keyboard, the output and
the control state are unchanged. -/
def Obligations.AndImmediateForm : Prop :=
  ∀ (dr sr1 : RegId) (imm5 : BitVec 5) (s : State), ∃ t r, exec (.andImm dr sr1 imm5) s = .next t ∧
    (∀ k, k < 16 → r.getLsbD k = ((s.reg sr1).getLsbD k && imm5.getLsbD (min k 4))) ∧
    WroteResult dr r s t

/-- O32 (40_operate.md, NOT). NOT completes on every state: the destination gets 0xFFFF minus the source; the
flags are set from it; every other register, pc, memory, the keyboard, the output and the control state are
unchanged. -/
def Obligations.NotComplements : Prop :=
  ∀ (dr sr1 : RegId) (s : State), ∃ t, exec (.notReg dr sr1) s = .next t ∧
    WroteResult dr (BitVec.ofNat 16 (65535 - (s.reg sr1).toNat)) s t

/-- O33 (41_control.md, BR, 92_eei_decisions.md D2). BR completes on every state: pc becomes the PC-relative
address when the mask bit of the current flag is 1 (bit 2 of the mask for N, bit 1 for Z, bit 0 for P), else
it keeps the incremented value; all other state is unchanged. Which mask bit stands for which flag is the
spec's own choice (92_eei_decisions.md D2; log 2). -/
def Obligations.BranchTakenOrNot : Prop :=
  ∀ (nzp : BitVec 3) (off9 : BitVec 9) (s : State), ∃ t, exec (.br nzp off9) s = .next t ∧
    Jumped (if (s.cc = .n ∧ nzp.getLsbD 2 = true) ∨ (s.cc = .z ∧ nzp.getLsbD 1 = true) ∨
        (s.cc = .p ∧ nzp.getLsbD 0 = true) then pcRelative s off9 else s.pc) [] s t

/-- O34 (41_control.md, JMP). JMP completes on every state: pc becomes the content of the base register, any
16-bit value; registers, flags, memory, devices and the control state are unchanged. -/
def Obligations.JumpGoesToTheRegister : Prop :=
  ∀ (baseR : RegId) (s : State), ∃ t, exec (.jmp baseR) s = .next t ∧ Jumped (s.reg baseR) [] s t

/-- O35 (41_control.md, JSR and JSRR). JSR completes on every state: R7 gets the incremented pc, pc becomes that
same incremented pc plus the sign-extended 11-bit offset modulo 65536; all other registers, the flags, memory,
devices and the control state are unchanged. -/
def Obligations.JsrLinksAndJumps : Prop :=
  ∀ (off11 : BitVec 11) (s : State), ∃ t, exec (.jsr off11) s = .next t ∧ t.reg 7 = s.pc ∧
    Jumped (BitVec.ofInt 16 ((s.pc.toNat : Int) + off11.toInt)) [7] s t

/-- O36 (41_control.md, JSR and JSRR, 92_eei_decisions.md D9). JSRR completes on every state: R7 gets the
incremented pc; pc becomes the base register, except that with base register R7 it becomes the value just
written, the address of the next instruction; all else is unchanged. The case of R7 is the spec's own decision
(92_eei_decisions.md D9; log 18). -/
def Obligations.JsrrLinksFirst : Prop :=
  ∀ (baseR : RegId) (s : State), ∃ t, exec (.jsrr baseR) s = .next t ∧ t.reg 7 = s.pc ∧
    Jumped (if baseR = 7 then s.pc else s.reg baseR) [7] s t

/-- O37 (41_control.md, properties of control transfer). After JSR or JSRR from any state, JMP R7 from any state
whose R7 is what the call left there leads to the incremented pc the call started from. -/
def Obligations.SubroutineReturns : Prop :=
  ∀ (off11 : BitVec 11) (baseR : RegId) (s t t' : State),
    exec (.jsr off11) s = .next t ∨ exec (.jsrr baseR) s = .next t → t'.reg 7 = t.reg 7 →
    ∃ u, exec (.jmp 7) t' = .next u ∧ u.pc = s.pc

/-- O38 (42_load_store.md, loads). LD completes on every state: the destination gets the word read through the I/O
decoder at the PC-relative address, the flags are set from it, and memory and keyboard are as that read left
them; away from KBSR that is the cell's content and nothing else changes. pc, the other registers, the output
and the control state are unchanged. -/
def Obligations.LoadPcRelative : Prop :=
  ∀ (dr : RegId) (off9 : BitVec 9) (s : State), ∃ t, exec (.ld dr off9) s = .next t ∧
    LoadedFrom (pcRelative s off9) dr s t ∧
    (pcRelative s off9 ≠ s.cfg.kbsrAddr →
      t.reg dr = s.cell (pcRelative s off9) ∧ CellsSameBut [] s t ∧ SameDevices s t)

/-- O39 (42_load_store.md, loads). LDI completes on every state: the pointer is read through the I/O decoder at
the PC-relative address; the destination gets the word read at the pointer on the state that first read left;
the flags are set from that word. When neither address is KBSR it is the cell the pointer cell names, and
memory and devices are unchanged. pc, the other registers, the output and the control state are unchanged. -/
def Obligations.LoadIndirect : Prop :=
  ∀ (dr : RegId) (off9 : BitVec 9) (s : State), ∃ t, exec (.ldi dr off9) s = .next t ∧
    LoadedFrom (memRead s (pcRelative s off9)).1 dr (memRead s (pcRelative s off9)).2 t ∧
    RegsSameBut [dr] s t ∧ t.pc = s.pc ∧ SameControl s t ∧ t.output = s.output ∧
    (pcRelative s off9 ≠ s.cfg.kbsrAddr → s.cell (pcRelative s off9) ≠ s.cfg.kbsrAddr →
      t.reg dr = s.cell (s.cell (pcRelative s off9)) ∧ CellsSameBut [] s t ∧ SameDevices s t)

/-- O40 (42_load_store.md, loads). LDR completes on every state: the destination gets the word read through the
I/O decoder at the old base register plus the signed 6-bit offset, also when destination and base are one
register; the flags are set from it; away from KBSR it is the cell's content and nothing else changes. pc, the
other registers, the output and the control state are unchanged. -/
def Obligations.LoadBasePlusOffset : Prop :=
  ∀ (dr baseR : RegId) (off6 : BitVec 6) (s : State), ∃ t, exec (.ldr dr baseR off6) s = .next t ∧
    LoadedFrom (basePlusOffset s baseR off6) dr s t ∧
    (basePlusOffset s baseR off6 ≠ s.cfg.kbsrAddr →
      t.reg dr = s.cell (basePlusOffset s baseR off6) ∧ CellsSameBut [] s t ∧ SameDevices s t)

/-- O41 (42_load_store.md, loads). LEA completes on every state: the destination gets the incremented pc plus the
signed 9-bit offset modulo 65536; the flags are set from that address; memory and the keyboard are untouched
even when the address is KBSR; all else is unchanged. -/
def Obligations.LoadEffectiveAddress : Prop :=
  ∀ (dr : RegId) (off9 : BitVec 9) (s : State), ∃ t, exec (.lea dr off9) s = .next t ∧
    WroteResult dr (BitVec.ofInt 16 ((s.pc.toNat : Int) + off9.toInt)) s t

/-- O42 (42_load_store.md, stores). ST completes on every state: the cell at the PC-relative address gets the
source register; every other cell, the registers, the flags, pc, the keyboard, the output and the control
state are unchanged. -/
def Obligations.StorePcRelative : Prop :=
  ∀ (sr : RegId) (off9 : BitVec 9) (s : State), ∃ t, exec (.st sr off9) s = .next t ∧
    Stored (pcRelative s off9) (s.reg sr) s t

/-- O43 (42_load_store.md, stores, 92_eei_decisions.md D16). STI completes on every state: the pointer is read
through the I/O decoder at the PC-relative address, and the source register is stored at it on the state that
read left; away from KBSR the pointer is the cell's content and only the cell it names changes. The flags are
kept, which is the spec's own decision (92_eei_decisions.md D16; log 20). -/
def Obligations.StoreIndirect : Prop :=
  ∀ (sr : RegId) (off9 : BitVec 9) (s : State), ∃ t, exec (.sti sr off9) s = .next t ∧
    Stored (indirect s off9).1 (s.reg sr) (indirect s off9).2 t ∧
    RegsSameBut [] s t ∧ t.cc = s.cc ∧ t.pc = s.pc ∧ SameControl s t ∧ t.output = s.output ∧
    (pcRelative s off9 ≠ s.cfg.kbsrAddr → Stored (s.cell (pcRelative s off9)) (s.reg sr) s t)

/-- O44 (42_load_store.md, stores, 92_eei_decisions.md D8, D16). STR completes on every state: the cell at the
base register plus the signed 6-bit offset gets the source register, which may be the base itself; every other
cell and all other state is unchanged. The flags are kept, which is the spec's own decision
(92_eei_decisions.md D16; log 20), and so are the places of the two register fields (D8; log 18). -/
def Obligations.StoreBasePlusOffset : Prop :=
  ∀ (sr baseR : RegId) (off6 : BitVec 6) (s : State), ∃ t, exec (.str sr baseR off6) s = .next t ∧
    Stored (basePlusOffset s baseR off6) (s.reg sr) s t

/-- O45 (43_reserved_and_trap.md, reserved opcodes, 60_exceptions.md section 1, 92_eei_decisions.md D11, D12,
D13). With STRICT false, RES and RTI, whatever their ignored bits, lead to the very same state: pc stays at
the incremented value and nothing is written. With STRICT true they record ReservedOpcode with the whole
instruction word (opcode 13 or 8 and the low 12 bits) in the diagnostic, clear the run flag and make the Step
return halted; all other state is unchanged. The policy's parameter and its strict form are the spec's own
decision (90_conflicts.md C4, 92_eei_decisions.md D11, D12, D13; log 15). -/
def Obligations.ReservedOpcodesFollowThePolicy : Prop :=
  ∀ (low : BitVec 12) (s : State),
    (s.cfg.strict = false → exec (.res low) s = .next s ∧ exec (.rti low) s = .next s) ∧
    (s.cfg.strict = true →
      exec (.res low) s = .next { s with
        diag := some (.reservedOpcode (BitVec.ofNat 16 (0xD000 + low.toNat)))
        running := false
        status := some .halted } ∧
      exec (.rti low) s = .next { s with
        diag := some (.reservedOpcode (BitVec.ofNat 16 (0x8000 + low.toNat)))
        running := false
        status := some .halted })

/-- O46 (43_reserved_and_trap.md, TRAP, 60_exceptions.md section 1, 92_eei_decisions.md D10, D11). When the slot
of the vector is unbound, TRAP writes the incremented pc to R7 and leaves pc there; in lenient mode nothing
else changes, in strict mode the diagnostic names the vector, the run flag is cleared and the Step returns
halted. Memory, flags, the other registers and the devices are unchanged in both. The spec's own decision
(92_eei_decisions.md D10, D11; log 15). -/
def Obligations.UnboundTrapLinksAndFollowsThePolicy : Prop :=
  ∀ (v : BitVec 8) (s : State), s.tt.lookup v = none →
    ∃ t, exec (.trap v) s = .next t ∧ t.reg 7 = s.pc ∧ t.pc = s.pc ∧ RegsSameBut [7] s t ∧ t.cc = s.cc ∧
      CellsSameBut [] s t ∧ SameDevices s t ∧ t.tt = s.tt ∧ t.hook = s.hook ∧ t.trapPhase = s.trapPhase ∧
      (s.cfg.strict = false → t.diag = s.diag ∧ t.running = s.running ∧ t.status = s.status) ∧
      (s.cfg.strict = true → t.diag = some (.unboundTrapVector v) ∧ t.running = false ∧ t.status = some .halted)

/-- O47 (43_reserved_and_trap.md, TRAP, 60_exceptions.md section 4). Whatever the slot holds, an unbound one and a
routine of the host included: after a TRAP, or after a step that went on with one, either the trap dispatch
state machine is idle and pc equals R7, or the TRAP is still in T3, the Step has not returned and pc has not
moved. The T3 state is the model's form of waiting (log 6). -/
def Obligations.TrapReturnsThroughR7 : Prop :=
  (∀ (v : BitVec 8) (s t : State), s.trapPhase = .idle → exec (.trap v) s = .next t →
    (t.trapPhase = .idle ∧ t.pc = t.reg 7) ∨ (t.trapPhase ≠ .idle ∧ t.status = none ∧ t.pc = s.pc)) ∧
  (∀ s t : State, s.trapPhase ≠ .idle → step s = .next t →
    (t.trapPhase = .idle ∧ t.pc = t.reg 7) ∨ (t.trapPhase ≠ .idle ∧ t.status = none ∧ t.pc = s.pc))

/-- O48 (44_trap_routines.md, GETC, 92_eei_decisions.md D14). When the slot holds GETC and a key comes, after any
number of moments without one, TRAP completes: R0 gets the key zero-extended, the flags are set from it, the
key is taken, R7 and pc are the return address; memory (the keyboard cells included), the output and all other
state are unchanged. The width is the spec's own decision (92_eei_decisions.md D14; log 16). -/
def Obligations.GetcReadsOneKey : Prop :=
  ∀ (v : BitVec 8) (s : State) (n : Nat) (c : Byte) (rest : List (Option Byte)), s.trapPhase = .idle →
    s.tt.lookup v = some .getc → s.keys = List.replicate n none ++ some c :: rest →
    ∃ t, exec (.trap v) s = .next t ∧ TrapReturned [0] s t ∧ t.reg 0 = c.setWidth 16 ∧
      FlagOf (c.setWidth 16) t.cc ∧ t.keys = rest ∧ t.output = s.output ∧ CellsSameBut [] s t

/-- O49 (44_trap_routines.md, OUT). When the slot holds OUT, TRAP completes: the low byte of R0 is appended to the
output, its high byte being ignored; R7 and pc are the return address; the other registers, the flags, memory,
the keyboard and all other state are unchanged. -/
def Obligations.OutWritesTheLowByte : Prop :=
  ∀ (v : BitVec 8) (s : State), s.trapPhase = .idle → s.tt.lookup v = some .out →
    ∃ t, exec (.trap v) s = .next t ∧ TrapReturned [] s t ∧
      t.output = s.output ++ [BitVec.ofNat 8 ((s.reg 0).toNat % 256)] ∧ t.cc = s.cc ∧ t.keys = s.keys ∧
      CellsSameBut [] s t

/-- O50 (44_trap_routines.md, PUTS, 92_eei_decisions.md D17). When the slot holds PUTS and R0 is the address of
non-zero words followed by a zero word, none of them in the cell of KBSR, TRAP completes: the low bytes of the
words, in order, are appended to the output; R7 and pc are the return address; the other registers, R0
included, the flags, memory and the keyboard are unchanged. The byte and R0 are the spec's own decision
(92_eei_decisions.md D17; log 16). -/
def Obligations.PutsWritesTheString : Prop :=
  ∀ (v : BitVec 8) (s : State) (ws : List Word), s.trapPhase = .idle → s.tt.lookup v = some .puts →
    StringAt s (s.reg 0) ws 0x0000#16 → (∀ w ∈ ws, w ≠ 0x0000#16) →
    ∃ t, exec (.trap v) s = .next t ∧ TrapReturned [] s t ∧
      t.output = s.output ++ ws.map (fun w => BitVec.ofNat 8 (w.toNat % 256)) ∧ t.cc = s.cc ∧
      t.keys = s.keys ∧ CellsSameBut [] s t

/-- O51 (44_trap_routines.md, IN, 92_eei_decisions.md D15). When the slot holds IN and a key comes, TRAP
completes: the key is appended to the output, R0 gets it zero-extended, the flags are set from it when
IN_SETS_FLAGS is true and kept when it is false, the key is taken, R7 and pc are the return address; memory
and all other state are unchanged. No prompt, and the flags: the spec's own decision (92_eei_decisions.md D15;
log 16). -/
def Obligations.InReadsOneKeyWithEcho : Prop :=
  ∀ (v : BitVec 8) (s : State) (n : Nat) (c : Byte) (rest : List (Option Byte)), s.trapPhase = .idle →
    s.tt.lookup v = some .input → s.keys = List.replicate n none ++ some c :: rest →
    ∃ t, exec (.trap v) s = .next t ∧ TrapReturned [0] s t ∧ t.reg 0 = c.setWidth 16 ∧
      (s.cfg.inSetsFlags = true → FlagOf (c.setWidth 16) t.cc) ∧ (s.cfg.inSetsFlags = false → t.cc = s.cc) ∧
      t.keys = rest ∧ t.output = s.output ++ [c] ∧ CellsSameBut [] s t

/-- O52 (44_trap_routines.md, PUTSP, 92_eei_decisions.md D18). When the slot holds PUTSP and R0 is the address of
words without a zero byte followed by a word that has one, none of them in the cell of KBSR, TRAP completes:
the low and the high byte of each word, in order, are appended to the output, and of the last word the low
byte if it is not zero; R7 and pc are the return address; the other registers, the flags, memory and the
keyboard are unchanged. Start and end are the spec's own decision (92_eei_decisions.md D18; log 16). -/
def Obligations.PutspWritesThePackedString : Prop :=
  ∀ (v : BitVec 8) (s : State) (ws : List Word) (last : Word), s.trapPhase = .idle →
    s.tt.lookup v = some .putsp → StringAt s (s.reg 0) ws last →
    (∀ w ∈ ws, w.toNat % 256 ≠ 0 ∧ w.toNat / 256 ≠ 0) → (last.toNat % 256 = 0 ∨ last.toNat / 256 = 0) →
    ∃ t, exec (.trap v) s = .next t ∧ TrapReturned [] s t ∧
      t.output = s.output ++
        ws.flatMap (fun w => [BitVec.ofNat 8 (w.toNat % 256), BitVec.ofNat 8 (w.toNat / 256)]) ++
        (if last.toNat % 256 = 0 then [] else [BitVec.ofNat 8 (last.toNat % 256)]) ∧
      t.cc = s.cc ∧ t.keys = s.keys ∧ CellsSameBut [] s t

/-- O53 (44_trap_routines.md, PUTSP, 20_memory.md section 2, 92_eei_decisions.md D4, D18). With the two keyboard
addresses different, TRAP to a slot that holds PUTSP never stays in T3: a scan that meets no zero byte before
reaches KBSR, whose word, 0x8000 or 0x0000, has a zero low byte. It follows from the KBSR value, the spec's
own decision (92_eei_decisions.md D4; log 4, 7). -/
def Obligations.PutspAlwaysFinishes : Prop :=
  ∀ (v : BitVec 8) (s : State), s.cfg.kbsrAddr ≠ s.cfg.kbdrAddr → s.trapPhase = .idle → s.tt.lookup v = some .putsp →
    ∃ t, exec (.trap v) s = .next t ∧ t.trapPhase = .idle ∧ t.pc = s.pc

/-- O54 (44_trap_routines.md, HALT, 92_eei_decisions.md D19, D22). When the slot holds HALT, TRAP completes: the
run flag is false, the Step returns halted, R7 and pc are the return address, and the flags, the other
registers, memory, the devices, the diagnostic, the trap table and the hook are unchanged. That no message is
written is the spec's own decision (92_eei_decisions.md D19; log 16). -/
def Obligations.HaltClearsRunning : Prop :=
  ∀ (v : BitVec 8) (s : State), s.trapPhase = .idle → s.tt.lookup v = some .halt →
    ∃ t, exec (.trap v) s = .next t ∧ t.running = false ∧ t.status = some .halted ∧ t.reg 7 = s.pc ∧ t.pc = s.pc ∧
      RegsSameBut [7] s t ∧ t.cc = s.cc ∧ CellsSameBut [] s t ∧ SameDevices s t ∧ t.diag = s.diag ∧
      t.tt = s.tt ∧ t.hook = s.hook ∧ t.cfg = s.cfg ∧ t.trapPhase = .idle

/-- O55 (43_reserved_and_trap.md, the trap dispatch state machine, 44_trap_routines.md, GETC and IN,
92_eei_decisions.md D14, D15, D20). When the slot holds GETC or IN and no key is to come, TRAP writes R7 and
stays in T3 with the Step not returned and pc, the other registers, the flags, memory, the devices and the
control state unchanged; a further step changes nothing; and once a key arrives, the next step completes the
TRAP: R0 gets the key, the flags are set from it by GETC, and by IN when IN_SETS_FLAGS is true, else they are
kept, IN echoes the key, R7 and pc are the return address, the Step returns continued, the key is taken, and
the registers other than R0 and R7, memory and the control state are as before the TRAP. The T3 state is the
model's form of the wait the spec leaves to the environment (92_eei_decisions.md D20; log 6), the width of R0,
the echo and the flags of IN are the spec's own decisions (92_eei_decisions.md D14, D15; log 16). -/
def Obligations.GetcAndInWaitForAKey : Prop :=
  ∀ (v : BitVec 8) (s : State) (r : Routine), s.trapPhase = .idle → (r = .getc ∨ r = .input) →
    s.tt.lookup v = some r → (∀ c, some c ∉ s.keys) →
    ∃ t, exec (.trap v) s = .next t ∧ t.trapPhase ≠ .idle ∧ t.status = none ∧ t.reg 7 = s.pc ∧ t.pc = s.pc ∧
      RegsSameBut [7] s t ∧ t.cc = s.cc ∧ CellsSameBut [] s t ∧ SameDevices s t ∧ SameHostSide s t ∧
      step t = .next t ∧
      ∀ c : Byte, ∃ u, step (keyArrives c t) = .next u ∧ u.trapPhase = .idle ∧ u.status = some .continued ∧
        u.reg 0 = c.setWidth 16 ∧ u.reg 7 = s.pc ∧ u.pc = s.pc ∧ RegsSameBut [0, 7] s u ∧
        (r = .getc ∨ s.cfg.inSetsFlags = true → FlagOf (c.setWidth 16) u.cc) ∧
        (r = .input → s.cfg.inSetsFlags = false → u.cc = s.cc) ∧
        CellsSameBut [] s u ∧ SameHostSide s u ∧ u.keys = [] ∧
        u.output = (if r = .input then s.output ++ [c] else s.output)

/-- O56 (44_trap_routines.md, 93_implementation_defined.md I3, 92_eei_decisions.md D24). Whatever the routine of
the host answers (a free value, log 8): TRAP writes R7 first; then registers, flags, memory writes, the
clearing of the run flag, keys taken and characters written are as the routine says, parameters, trap table,
diagnostic and hook are unchanged; pc becomes R7 as the routine left it if it finished, and else stays, with
the TRAP in T3 and the Step not returned. -/
def Obligations.HostRoutineHasOnlyTheContractsEffects : Prop :=
  ∀ (v : BitVec 8) (id : Nat) (s : State), s.trapPhase = .idle → s.tt.lookup v = some (.host id) →
    let e := Config.hostRoutine id s.hostCalls (hostView (s.setReg 7 s.pc))
    ∃ t, exec (.trap v) s = .next t ∧ t.regs = e.regs ∧ t.cc = e.cc ∧ t.mem = hostWrites s.mem e.writes ∧
      t.running = (s.running && !e.clearsRunning) ∧ t.keys = s.keys.drop e.keysTaken ∧
      t.output = s.output ++ e.output ∧ t.cfg = s.cfg ∧ t.tt = s.tt ∧ t.diag = s.diag ∧ t.hook = s.hook ∧
      t.hostCalls = s.hostCalls + 1 ∧
      (if e.completes then t.trapPhase = .idle ∧ t.pc = e.regs[7] ∧ t.status = s.status
       else t.trapPhase = .host id ∧ t.pc = s.pc ∧ t.status = none)

/-- O57 (10_state.md section 8, 70_reset_and_hazards.md section 1, 92_eei_decisions.md D12, D32). After the host
command Reset, for any parameters: registers 0x0000, pc START_ADDR, flags Z, every cell 0x0000, run flag
false, diagnostic none, the keyboard and the output untouched; where EXTRA_TRAPS names no vector twice, each
of its vectors is bound to its routine, and every other slot is as the architected table says: 0x20 to 0x25
GETC, OUT, PUTS, IN, PUTSP, HALT, else unbound. State.reset is that with the default parameters. diag and TT
under Reset are the spec's own decision (92_eei_decisions.md D12, D32; log 23). That an entry of EXTRA_TRAPS
at one of 0x20 to 0x25 replaces the architected routine there is the model's choice (log 24). -/
def Obligations.ResetLeavesTheListedValues : Prop :=
  (∀ s : State, (∀ i : RegId, (hostReset s).reg i = 0x0000#16) ∧ (hostReset s).pc = s.cfg.startAddr ∧
    (hostReset s).cc = .z ∧ (∀ a : Word, (hostReset s).cell a = 0x0000#16) ∧ (hostReset s).running = false ∧
    (hostReset s).diag = none ∧ (hostReset s).cfg = s.cfg ∧ SameDevices s (hostReset s) ∧
    ((s.cfg.extraTraps.map Prod.fst).Nodup →
      (∀ v id, (v, id) ∈ s.cfg.extraTraps → (hostReset s).tt.lookup v = some (.host id)) ∧
      (∀ v, v ∉ s.cfg.extraTraps.map Prod.fst → (hostReset s).tt.lookup v =
        if v = 0x20#8 then some .getc else if v = 0x21#8 then some .out else if v = 0x22#8 then some .puts
        else if v = 0x23#8 then some .input else if v = 0x24#8 then some .putsp
        else if v = 0x25#8 then some .halt else none))) ∧
  hostReset State.reset = State.reset ∧ State.reset.pc = 0x3000#16

/-- O58 (70_reset_and_hazards.md section 2, 92_eei_decisions.md D23). An image of at least two bytes whose words
end at or before 0xFFFF is loaded: word k, high byte first, stands at origin plus k, every other cell and all
other state is unchanged, a trailing odd byte is ignored. One that would pass 0xFFFF answers ImageOverflow,
one of fewer than two bytes ImageTooShort, with no new state. The corner cases are the spec's own decision
(92_eei_decisions.md D23; log 21). -/
def Obligations.LoadWritesTheImageOrRefusesIt : Prop :=
  (∀ (o1 o0 : Byte) (rest : List Byte) (s : State),
    (65536 < (o1 ++ o0).toNat + rest.length / 2 → load (o1 :: o0 :: rest) s = .imageOverflow) ∧
    ((o1 ++ o0).toNat + rest.length / 2 ≤ 65536 → ∃ t, load (o1 :: o0 :: rest) s = .ok t ∧
      (∀ k, k < rest.length / 2 →
        t.cell (wordAt (o1 ++ o0) k) = rest.getD (2 * k) 0x00#8 ++ rest.getD (2 * k + 1) 0x00#8) ∧
      (∀ a : Word, (∀ k, k < rest.length / 2 → a ≠ wordAt (o1 ++ o0) k) → t.cell a = s.cell a) ∧
      t = { s with mem := t.mem })) ∧
  (∀ (b : List Byte) (s : State), b.length < 2 → load b s = .imageTooShort)

/-- O59 (70_reset_and_hazards.md section 3, 10_state.md section 5, 92_eei_decisions.md D25). After BindTrap(v,
routine), slot v holds the routine, every other slot is unchanged, and all other state is unchanged. That the
table is state is the spec's own decision (92_eei_decisions.md D25; log 25). -/
def Obligations.BindTrapReplacesOneSlot : Prop :=
  ∀ (v u : Byte) (r : Routine) (s : State),
    (bindTrap v r s).tt.lookup u = (if u = v then some r else s.tt.lookup u) ∧
    bindTrap v r s = { s with tt := (bindTrap v r s).tt }

/-- O60 (70_reset_and_hazards.md section 3, 92_eei_decisions.md D21). Run is its loop from the state with the run
flag set. At any state the loop, with a step left: where the run flag is clear and no TRAP is in T3 it returns
halted with that state and takes no step; else it takes a step, and returns cancelled with the state after it
if that step was cancelled, and goes on from that state if not. So a Run whose first step clears the run flag,
is not cancelled and leaves no TRAP in T3 returns halted with the state after it. Whenever the loop returns
halted the run flag is false, whenever it returns cancelled the run flag is true, and it then returns the same
under any larger bound. The bound on the steps is the model's own, and so is that the flag is not tested while
a TRAP is in T3 (log 27, 6); the state after a cancel is the spec's own decision (92_eei_decisions.md D21). -/
def Obligations.RunStopsAfterHaltOrCancel : Prop :=
  (∀ (n : Nat) (s : State), run n s = runLoop n (s.setRunning true)) ∧
  (∀ (n : Nat) (s : State), s.trapPhase = .idle → s.running = false → runLoop (n + 1) s = .halted s) ∧
  (∀ (n : Nat) (s t : State), ¬ (s.trapPhase = .idle ∧ s.running = false) → step s = .next t →
    (t.status = some .cancelled → runLoop (n + 1) s = .cancelled t) ∧
    (t.status ≠ some .cancelled → runLoop (n + 1) s = runLoop n t)) ∧
  (∀ (n : Nat) (s t : State), step (s.setRunning true) = .next t →
    (t.trapPhase = .idle → t.running = false → t.status ≠ some .cancelled → run (n + 2) s = .halted t) ∧
    (t.status = some .cancelled → run (n + 1) s = .cancelled t)) ∧
  (∀ (n k : Nat) (s t : State),
    (runLoop n s = .halted t → t.trapPhase = .idle ∧ t.running = false ∧ runLoop (n + k) s = .halted t) ∧
    (runLoop n s = .cancelled t → t.running = true ∧ runLoop (n + k) s = .cancelled t))
end

