-- ==== Sys2Proof/Laws/State.lean ====
section
/-! SUPPORT. One lemma per field per update of State, so that no later proof unfolds a record update. -/

namespace Sys2Proof.Machine

namespace State

variable (s : State)

@[simp] theorem setReg_cfg (i : RegId) (v : Word) : (s.setReg i v).cfg = s.cfg := rfl
@[simp] theorem setReg_pc (i : RegId) (v : Word) : (s.setReg i v).pc = s.pc := rfl
@[simp] theorem setReg_cc (i : RegId) (v : Word) : (s.setReg i v).cc = s.cc := rfl
@[simp] theorem setReg_mem (i : RegId) (v : Word) : (s.setReg i v).mem = s.mem := rfl
@[simp] theorem setReg_running (i : RegId) (v : Word) : (s.setReg i v).running = s.running := rfl
@[simp] theorem setReg_diag (i : RegId) (v : Word) : (s.setReg i v).diag = s.diag := rfl
@[simp] theorem setReg_tt (i : RegId) (v : Word) : (s.setReg i v).tt = s.tt := rfl
@[simp] theorem setReg_trapPhase (i : RegId) (v : Word) : (s.setReg i v).trapPhase = s.trapPhase := rfl
@[simp] theorem setReg_status (i : RegId) (v : Word) : (s.setReg i v).status = s.status := rfl
@[simp] theorem setReg_keys (i : RegId) (v : Word) : (s.setReg i v).keys = s.keys := rfl
@[simp] theorem setReg_hook (i : RegId) (v : Word) : (s.setReg i v).hook = s.hook := rfl
@[simp] theorem setReg_output (i : RegId) (v : Word) : (s.setReg i v).output = s.output := rfl
@[simp] theorem setReg_hostCalls (i : RegId) (v : Word) : (s.setReg i v).hostCalls = s.hostCalls := rfl
@[simp] theorem setReg_cell (i : RegId) (v : Word) (a : Word) : (s.setReg i v).cell a = s.cell a := rfl

@[simp] theorem setRegs_cfg (v : Vector Word 8) : (s.setRegs v).cfg = s.cfg := rfl
@[simp] theorem setRegs_regs (v : Vector Word 8) : (s.setRegs v).regs = v := rfl
@[simp] theorem setRegs_pc (v : Vector Word 8) : (s.setRegs v).pc = s.pc := rfl
@[simp] theorem setRegs_cc (v : Vector Word 8) : (s.setRegs v).cc = s.cc := rfl
@[simp] theorem setRegs_mem (v : Vector Word 8) : (s.setRegs v).mem = s.mem := rfl
@[simp] theorem setRegs_running (v : Vector Word 8) : (s.setRegs v).running = s.running := rfl
@[simp] theorem setRegs_diag (v : Vector Word 8) : (s.setRegs v).diag = s.diag := rfl
@[simp] theorem setRegs_tt (v : Vector Word 8) : (s.setRegs v).tt = s.tt := rfl
@[simp] theorem setRegs_trapPhase (v : Vector Word 8) : (s.setRegs v).trapPhase = s.trapPhase := rfl
@[simp] theorem setRegs_status (v : Vector Word 8) : (s.setRegs v).status = s.status := rfl
@[simp] theorem setRegs_keys (v : Vector Word 8) : (s.setRegs v).keys = s.keys := rfl
@[simp] theorem setRegs_hook (v : Vector Word 8) : (s.setRegs v).hook = s.hook := rfl
@[simp] theorem setRegs_output (v : Vector Word 8) : (s.setRegs v).output = s.output := rfl
@[simp] theorem setRegs_hostCalls (v : Vector Word 8) : (s.setRegs v).hostCalls = s.hostCalls := rfl
@[simp] theorem setRegs_cell (v : Vector Word 8) (a : Word) : (s.setRegs v).cell a = s.cell a := rfl

@[simp] theorem setPc_cfg (v : Word) : (s.setPc v).cfg = s.cfg := rfl
@[simp] theorem setPc_regs (v : Word) : (s.setPc v).regs = s.regs := rfl
@[simp] theorem setPc_pc (v : Word) : (s.setPc v).pc = v := rfl
@[simp] theorem setPc_cc (v : Word) : (s.setPc v).cc = s.cc := rfl
@[simp] theorem setPc_mem (v : Word) : (s.setPc v).mem = s.mem := rfl
@[simp] theorem setPc_running (v : Word) : (s.setPc v).running = s.running := rfl
@[simp] theorem setPc_diag (v : Word) : (s.setPc v).diag = s.diag := rfl
@[simp] theorem setPc_tt (v : Word) : (s.setPc v).tt = s.tt := rfl
@[simp] theorem setPc_trapPhase (v : Word) : (s.setPc v).trapPhase = s.trapPhase := rfl
@[simp] theorem setPc_status (v : Word) : (s.setPc v).status = s.status := rfl
@[simp] theorem setPc_keys (v : Word) : (s.setPc v).keys = s.keys := rfl
@[simp] theorem setPc_hook (v : Word) : (s.setPc v).hook = s.hook := rfl
@[simp] theorem setPc_output (v : Word) : (s.setPc v).output = s.output := rfl
@[simp] theorem setPc_hostCalls (v : Word) : (s.setPc v).hostCalls = s.hostCalls := rfl
@[simp] theorem setPc_reg (v : Word) (j : RegId) : (s.setPc v).reg j = s.reg j := rfl
@[simp] theorem setPc_cell (v : Word) (a : Word) : (s.setPc v).cell a = s.cell a := rfl

@[simp] theorem setCc_cfg (f : Flag) : (s.setCc f).cfg = s.cfg := rfl
@[simp] theorem setCc_regs (f : Flag) : (s.setCc f).regs = s.regs := rfl
@[simp] theorem setCc_pc (f : Flag) : (s.setCc f).pc = s.pc := rfl
@[simp] theorem setCc_cc (f : Flag) : (s.setCc f).cc = f := rfl
@[simp] theorem setCc_mem (f : Flag) : (s.setCc f).mem = s.mem := rfl
@[simp] theorem setCc_running (f : Flag) : (s.setCc f).running = s.running := rfl
@[simp] theorem setCc_diag (f : Flag) : (s.setCc f).diag = s.diag := rfl
@[simp] theorem setCc_tt (f : Flag) : (s.setCc f).tt = s.tt := rfl
@[simp] theorem setCc_trapPhase (f : Flag) : (s.setCc f).trapPhase = s.trapPhase := rfl
@[simp] theorem setCc_status (f : Flag) : (s.setCc f).status = s.status := rfl
@[simp] theorem setCc_keys (f : Flag) : (s.setCc f).keys = s.keys := rfl
@[simp] theorem setCc_hook (f : Flag) : (s.setCc f).hook = s.hook := rfl
@[simp] theorem setCc_output (f : Flag) : (s.setCc f).output = s.output := rfl
@[simp] theorem setCc_hostCalls (f : Flag) : (s.setCc f).hostCalls = s.hostCalls := rfl
@[simp] theorem setCc_reg (f : Flag) (j : RegId) : (s.setCc f).reg j = s.reg j := rfl
@[simp] theorem setCc_cell (f : Flag) (a : Word) : (s.setCc f).cell a = s.cell a := rfl

@[simp] theorem setMem_cfg (m : Memory) : (s.setMem m).cfg = s.cfg := rfl
@[simp] theorem setMem_regs (m : Memory) : (s.setMem m).regs = s.regs := rfl
@[simp] theorem setMem_pc (m : Memory) : (s.setMem m).pc = s.pc := rfl
@[simp] theorem setMem_cc (m : Memory) : (s.setMem m).cc = s.cc := rfl
@[simp] theorem setMem_mem (m : Memory) : (s.setMem m).mem = m := rfl
@[simp] theorem setMem_running (m : Memory) : (s.setMem m).running = s.running := rfl
@[simp] theorem setMem_diag (m : Memory) : (s.setMem m).diag = s.diag := rfl
@[simp] theorem setMem_tt (m : Memory) : (s.setMem m).tt = s.tt := rfl
@[simp] theorem setMem_trapPhase (m : Memory) : (s.setMem m).trapPhase = s.trapPhase := rfl
@[simp] theorem setMem_status (m : Memory) : (s.setMem m).status = s.status := rfl
@[simp] theorem setMem_keys (m : Memory) : (s.setMem m).keys = s.keys := rfl
@[simp] theorem setMem_hook (m : Memory) : (s.setMem m).hook = s.hook := rfl
@[simp] theorem setMem_output (m : Memory) : (s.setMem m).output = s.output := rfl
@[simp] theorem setMem_hostCalls (m : Memory) : (s.setMem m).hostCalls = s.hostCalls := rfl
@[simp] theorem setMem_reg (m : Memory) (j : RegId) : (s.setMem m).reg j = s.reg j := rfl

@[simp] theorem setRunning_cfg (b : Bool) : (s.setRunning b).cfg = s.cfg := rfl
@[simp] theorem setRunning_regs (b : Bool) : (s.setRunning b).regs = s.regs := rfl
@[simp] theorem setRunning_pc (b : Bool) : (s.setRunning b).pc = s.pc := rfl
@[simp] theorem setRunning_cc (b : Bool) : (s.setRunning b).cc = s.cc := rfl
@[simp] theorem setRunning_mem (b : Bool) : (s.setRunning b).mem = s.mem := rfl
@[simp] theorem setRunning_running (b : Bool) : (s.setRunning b).running = b := rfl
@[simp] theorem setRunning_diag (b : Bool) : (s.setRunning b).diag = s.diag := rfl
@[simp] theorem setRunning_tt (b : Bool) : (s.setRunning b).tt = s.tt := rfl
@[simp] theorem setRunning_trapPhase (b : Bool) : (s.setRunning b).trapPhase = s.trapPhase := rfl
@[simp] theorem setRunning_status (b : Bool) : (s.setRunning b).status = s.status := rfl
@[simp] theorem setRunning_keys (b : Bool) : (s.setRunning b).keys = s.keys := rfl
@[simp] theorem setRunning_hook (b : Bool) : (s.setRunning b).hook = s.hook := rfl
@[simp] theorem setRunning_output (b : Bool) : (s.setRunning b).output = s.output := rfl
@[simp] theorem setRunning_hostCalls (b : Bool) : (s.setRunning b).hostCalls = s.hostCalls := rfl
@[simp] theorem setRunning_reg (b : Bool) (j : RegId) : (s.setRunning b).reg j = s.reg j := rfl
@[simp] theorem setRunning_cell (b : Bool) (a : Word) : (s.setRunning b).cell a = s.cell a := rfl

@[simp] theorem setDiag_cfg (d : Option RuntimeFault) : (s.setDiag d).cfg = s.cfg := rfl
@[simp] theorem setDiag_regs (d : Option RuntimeFault) : (s.setDiag d).regs = s.regs := rfl
@[simp] theorem setDiag_pc (d : Option RuntimeFault) : (s.setDiag d).pc = s.pc := rfl
@[simp] theorem setDiag_cc (d : Option RuntimeFault) : (s.setDiag d).cc = s.cc := rfl
@[simp] theorem setDiag_mem (d : Option RuntimeFault) : (s.setDiag d).mem = s.mem := rfl
@[simp] theorem setDiag_running (d : Option RuntimeFault) : (s.setDiag d).running = s.running := rfl
@[simp] theorem setDiag_diag (d : Option RuntimeFault) : (s.setDiag d).diag = d := rfl
@[simp] theorem setDiag_tt (d : Option RuntimeFault) : (s.setDiag d).tt = s.tt := rfl
@[simp] theorem setDiag_trapPhase (d : Option RuntimeFault) : (s.setDiag d).trapPhase = s.trapPhase := rfl
@[simp] theorem setDiag_status (d : Option RuntimeFault) : (s.setDiag d).status = s.status := rfl
@[simp] theorem setDiag_keys (d : Option RuntimeFault) : (s.setDiag d).keys = s.keys := rfl
@[simp] theorem setDiag_hook (d : Option RuntimeFault) : (s.setDiag d).hook = s.hook := rfl
@[simp] theorem setDiag_output (d : Option RuntimeFault) : (s.setDiag d).output = s.output := rfl
@[simp] theorem setDiag_hostCalls (d : Option RuntimeFault) : (s.setDiag d).hostCalls = s.hostCalls := rfl
@[simp] theorem setDiag_reg (d : Option RuntimeFault) (j : RegId) : (s.setDiag d).reg j = s.reg j := rfl
@[simp] theorem setDiag_cell (d : Option RuntimeFault) (a : Word) : (s.setDiag d).cell a = s.cell a := rfl

@[simp] theorem setTt_cfg (t : TrapTable) : (s.setTt t).cfg = s.cfg := rfl
@[simp] theorem setTt_regs (t : TrapTable) : (s.setTt t).regs = s.regs := rfl
@[simp] theorem setTt_pc (t : TrapTable) : (s.setTt t).pc = s.pc := rfl
@[simp] theorem setTt_cc (t : TrapTable) : (s.setTt t).cc = s.cc := rfl
@[simp] theorem setTt_mem (t : TrapTable) : (s.setTt t).mem = s.mem := rfl
@[simp] theorem setTt_running (t : TrapTable) : (s.setTt t).running = s.running := rfl
@[simp] theorem setTt_diag (t : TrapTable) : (s.setTt t).diag = s.diag := rfl
@[simp] theorem setTt_tt (t : TrapTable) : (s.setTt t).tt = t := rfl
@[simp] theorem setTt_trapPhase (t : TrapTable) : (s.setTt t).trapPhase = s.trapPhase := rfl
@[simp] theorem setTt_status (t : TrapTable) : (s.setTt t).status = s.status := rfl
@[simp] theorem setTt_keys (t : TrapTable) : (s.setTt t).keys = s.keys := rfl
@[simp] theorem setTt_hook (t : TrapTable) : (s.setTt t).hook = s.hook := rfl
@[simp] theorem setTt_output (t : TrapTable) : (s.setTt t).output = s.output := rfl
@[simp] theorem setTt_hostCalls (t : TrapTable) : (s.setTt t).hostCalls = s.hostCalls := rfl
@[simp] theorem setTt_reg (t : TrapTable) (j : RegId) : (s.setTt t).reg j = s.reg j := rfl
@[simp] theorem setTt_cell (t : TrapTable) (a : Word) : (s.setTt t).cell a = s.cell a := rfl

@[simp] theorem setTrapPhase_cfg (p : TrapPhase) : (s.setTrapPhase p).cfg = s.cfg := rfl
@[simp] theorem setTrapPhase_regs (p : TrapPhase) : (s.setTrapPhase p).regs = s.regs := rfl
@[simp] theorem setTrapPhase_pc (p : TrapPhase) : (s.setTrapPhase p).pc = s.pc := rfl
@[simp] theorem setTrapPhase_cc (p : TrapPhase) : (s.setTrapPhase p).cc = s.cc := rfl
@[simp] theorem setTrapPhase_mem (p : TrapPhase) : (s.setTrapPhase p).mem = s.mem := rfl
@[simp] theorem setTrapPhase_running (p : TrapPhase) : (s.setTrapPhase p).running = s.running := rfl
@[simp] theorem setTrapPhase_diag (p : TrapPhase) : (s.setTrapPhase p).diag = s.diag := rfl
@[simp] theorem setTrapPhase_tt (p : TrapPhase) : (s.setTrapPhase p).tt = s.tt := rfl
@[simp] theorem setTrapPhase_trapPhase (p : TrapPhase) : (s.setTrapPhase p).trapPhase = p := rfl
@[simp] theorem setTrapPhase_status (p : TrapPhase) : (s.setTrapPhase p).status = s.status := rfl
@[simp] theorem setTrapPhase_keys (p : TrapPhase) : (s.setTrapPhase p).keys = s.keys := rfl
@[simp] theorem setTrapPhase_hook (p : TrapPhase) : (s.setTrapPhase p).hook = s.hook := rfl
@[simp] theorem setTrapPhase_output (p : TrapPhase) : (s.setTrapPhase p).output = s.output := rfl
@[simp] theorem setTrapPhase_hostCalls (p : TrapPhase) : (s.setTrapPhase p).hostCalls = s.hostCalls := rfl
@[simp] theorem setTrapPhase_reg (p : TrapPhase) (j : RegId) : (s.setTrapPhase p).reg j = s.reg j := rfl
@[simp] theorem setTrapPhase_cell (p : TrapPhase) (a : Word) : (s.setTrapPhase p).cell a = s.cell a := rfl

@[simp] theorem setStatus_cfg (r : Option StepStatus) : (s.setStatus r).cfg = s.cfg := rfl
@[simp] theorem setStatus_regs (r : Option StepStatus) : (s.setStatus r).regs = s.regs := rfl
@[simp] theorem setStatus_pc (r : Option StepStatus) : (s.setStatus r).pc = s.pc := rfl
@[simp] theorem setStatus_cc (r : Option StepStatus) : (s.setStatus r).cc = s.cc := rfl
@[simp] theorem setStatus_mem (r : Option StepStatus) : (s.setStatus r).mem = s.mem := rfl
@[simp] theorem setStatus_running (r : Option StepStatus) : (s.setStatus r).running = s.running := rfl
@[simp] theorem setStatus_diag (r : Option StepStatus) : (s.setStatus r).diag = s.diag := rfl
@[simp] theorem setStatus_tt (r : Option StepStatus) : (s.setStatus r).tt = s.tt := rfl
@[simp] theorem setStatus_trapPhase (r : Option StepStatus) : (s.setStatus r).trapPhase = s.trapPhase := rfl
@[simp] theorem setStatus_status (r : Option StepStatus) : (s.setStatus r).status = r := rfl
@[simp] theorem setStatus_keys (r : Option StepStatus) : (s.setStatus r).keys = s.keys := rfl
@[simp] theorem setStatus_hook (r : Option StepStatus) : (s.setStatus r).hook = s.hook := rfl
@[simp] theorem setStatus_output (r : Option StepStatus) : (s.setStatus r).output = s.output := rfl
@[simp] theorem setStatus_hostCalls (r : Option StepStatus) : (s.setStatus r).hostCalls = s.hostCalls := rfl
@[simp] theorem setStatus_reg (r : Option StepStatus) (j : RegId) : (s.setStatus r).reg j = s.reg j := rfl
@[simp] theorem setStatus_cell (r : Option StepStatus) (a : Word) : (s.setStatus r).cell a = s.cell a := rfl

@[simp] theorem setKeys_cfg (k : List (Option Byte)) : (s.setKeys k).cfg = s.cfg := rfl
@[simp] theorem setKeys_regs (k : List (Option Byte)) : (s.setKeys k).regs = s.regs := rfl
@[simp] theorem setKeys_pc (k : List (Option Byte)) : (s.setKeys k).pc = s.pc := rfl
@[simp] theorem setKeys_cc (k : List (Option Byte)) : (s.setKeys k).cc = s.cc := rfl
@[simp] theorem setKeys_mem (k : List (Option Byte)) : (s.setKeys k).mem = s.mem := rfl
@[simp] theorem setKeys_running (k : List (Option Byte)) : (s.setKeys k).running = s.running := rfl
@[simp] theorem setKeys_diag (k : List (Option Byte)) : (s.setKeys k).diag = s.diag := rfl
@[simp] theorem setKeys_tt (k : List (Option Byte)) : (s.setKeys k).tt = s.tt := rfl
@[simp] theorem setKeys_trapPhase (k : List (Option Byte)) : (s.setKeys k).trapPhase = s.trapPhase := rfl
@[simp] theorem setKeys_status (k : List (Option Byte)) : (s.setKeys k).status = s.status := rfl
@[simp] theorem setKeys_keys (k : List (Option Byte)) : (s.setKeys k).keys = k := rfl
@[simp] theorem setKeys_hook (k : List (Option Byte)) : (s.setKeys k).hook = s.hook := rfl
@[simp] theorem setKeys_output (k : List (Option Byte)) : (s.setKeys k).output = s.output := rfl
@[simp] theorem setKeys_hostCalls (k : List (Option Byte)) : (s.setKeys k).hostCalls = s.hostCalls := rfl
@[simp] theorem setKeys_reg (k : List (Option Byte)) (j : RegId) : (s.setKeys k).reg j = s.reg j := rfl
@[simp] theorem setKeys_cell (k : List (Option Byte)) (a : Word) : (s.setKeys k).cell a = s.cell a := rfl

@[simp] theorem setHook_cfg (h : List HookAnswer) : (s.setHook h).cfg = s.cfg := rfl
@[simp] theorem setHook_regs (h : List HookAnswer) : (s.setHook h).regs = s.regs := rfl
@[simp] theorem setHook_pc (h : List HookAnswer) : (s.setHook h).pc = s.pc := rfl
@[simp] theorem setHook_cc (h : List HookAnswer) : (s.setHook h).cc = s.cc := rfl
@[simp] theorem setHook_mem (h : List HookAnswer) : (s.setHook h).mem = s.mem := rfl
@[simp] theorem setHook_running (h : List HookAnswer) : (s.setHook h).running = s.running := rfl
@[simp] theorem setHook_diag (h : List HookAnswer) : (s.setHook h).diag = s.diag := rfl
@[simp] theorem setHook_tt (h : List HookAnswer) : (s.setHook h).tt = s.tt := rfl
@[simp] theorem setHook_trapPhase (h : List HookAnswer) : (s.setHook h).trapPhase = s.trapPhase := rfl
@[simp] theorem setHook_status (h : List HookAnswer) : (s.setHook h).status = s.status := rfl
@[simp] theorem setHook_keys (h : List HookAnswer) : (s.setHook h).keys = s.keys := rfl
@[simp] theorem setHook_hook (h : List HookAnswer) : (s.setHook h).hook = h := rfl
@[simp] theorem setHook_output (h : List HookAnswer) : (s.setHook h).output = s.output := rfl
@[simp] theorem setHook_hostCalls (h : List HookAnswer) : (s.setHook h).hostCalls = s.hostCalls := rfl
@[simp] theorem setHook_reg (h : List HookAnswer) (j : RegId) : (s.setHook h).reg j = s.reg j := rfl
@[simp] theorem setHook_cell (h : List HookAnswer) (a : Word) : (s.setHook h).cell a = s.cell a := rfl

@[simp] theorem putChars_cfg (cs : List Byte) : (s.putChars cs).cfg = s.cfg := rfl
@[simp] theorem putChars_regs (cs : List Byte) : (s.putChars cs).regs = s.regs := rfl
@[simp] theorem putChars_pc (cs : List Byte) : (s.putChars cs).pc = s.pc := rfl
@[simp] theorem putChars_cc (cs : List Byte) : (s.putChars cs).cc = s.cc := rfl
@[simp] theorem putChars_mem (cs : List Byte) : (s.putChars cs).mem = s.mem := rfl
@[simp] theorem putChars_running (cs : List Byte) : (s.putChars cs).running = s.running := rfl
@[simp] theorem putChars_diag (cs : List Byte) : (s.putChars cs).diag = s.diag := rfl
@[simp] theorem putChars_tt (cs : List Byte) : (s.putChars cs).tt = s.tt := rfl
@[simp] theorem putChars_trapPhase (cs : List Byte) : (s.putChars cs).trapPhase = s.trapPhase := rfl
@[simp] theorem putChars_status (cs : List Byte) : (s.putChars cs).status = s.status := rfl
@[simp] theorem putChars_keys (cs : List Byte) : (s.putChars cs).keys = s.keys := rfl
@[simp] theorem putChars_hook (cs : List Byte) : (s.putChars cs).hook = s.hook := rfl
@[simp] theorem putChars_output (cs : List Byte) : (s.putChars cs).output = s.output ++ cs := rfl
@[simp] theorem putChars_hostCalls (cs : List Byte) : (s.putChars cs).hostCalls = s.hostCalls := rfl
@[simp] theorem putChars_reg (cs : List Byte) (j : RegId) : (s.putChars cs).reg j = s.reg j := rfl
@[simp] theorem putChars_cell (cs : List Byte) (a : Word) : (s.putChars cs).cell a = s.cell a := rfl

@[simp] theorem countHostCall_cfg : (s.countHostCall).cfg = s.cfg := rfl
@[simp] theorem countHostCall_regs : (s.countHostCall).regs = s.regs := rfl
@[simp] theorem countHostCall_pc : (s.countHostCall).pc = s.pc := rfl
@[simp] theorem countHostCall_cc : (s.countHostCall).cc = s.cc := rfl
@[simp] theorem countHostCall_mem : (s.countHostCall).mem = s.mem := rfl
@[simp] theorem countHostCall_running : (s.countHostCall).running = s.running := rfl
@[simp] theorem countHostCall_diag : (s.countHostCall).diag = s.diag := rfl
@[simp] theorem countHostCall_tt : (s.countHostCall).tt = s.tt := rfl
@[simp] theorem countHostCall_trapPhase : (s.countHostCall).trapPhase = s.trapPhase := rfl
@[simp] theorem countHostCall_status : (s.countHostCall).status = s.status := rfl
@[simp] theorem countHostCall_keys : (s.countHostCall).keys = s.keys := rfl
@[simp] theorem countHostCall_hook : (s.countHostCall).hook = s.hook := rfl
@[simp] theorem countHostCall_output : (s.countHostCall).output = s.output := rfl
@[simp] theorem countHostCall_hostCalls : (s.countHostCall).hostCalls = s.hostCalls + 1 := rfl
@[simp] theorem countHostCall_reg (j : RegId) : (s.countHostCall).reg j = s.reg j := rfl
@[simp] theorem countHostCall_cell (a : Word) : (s.countHostCall).cell a = s.cell a := rfl

/-! The same for the two writes that are made of these. -/

@[simp] theorem setCell_cfg (a v : Word) : (s.setCell a v).cfg = s.cfg := rfl
@[simp] theorem setCell_regs (a v : Word) : (s.setCell a v).regs = s.regs := rfl
@[simp] theorem setCell_pc (a v : Word) : (s.setCell a v).pc = s.pc := rfl
@[simp] theorem setCell_cc (a v : Word) : (s.setCell a v).cc = s.cc := rfl
@[simp] theorem setCell_mem (a v : Word) : (s.setCell a v).mem = s.mem.write a v := rfl
@[simp] theorem setCell_running (a v : Word) : (s.setCell a v).running = s.running := rfl
@[simp] theorem setCell_diag (a v : Word) : (s.setCell a v).diag = s.diag := rfl
@[simp] theorem setCell_tt (a v : Word) : (s.setCell a v).tt = s.tt := rfl
@[simp] theorem setCell_trapPhase (a v : Word) : (s.setCell a v).trapPhase = s.trapPhase := rfl
@[simp] theorem setCell_status (a v : Word) : (s.setCell a v).status = s.status := rfl
@[simp] theorem setCell_keys (a v : Word) : (s.setCell a v).keys = s.keys := rfl
@[simp] theorem setCell_hook (a v : Word) : (s.setCell a v).hook = s.hook := rfl
@[simp] theorem setCell_output (a v : Word) : (s.setCell a v).output = s.output := rfl
@[simp] theorem setCell_hostCalls (a v : Word) : (s.setCell a v).hostCalls = s.hostCalls := rfl
@[simp] theorem setCell_reg (a v : Word) (j : RegId) : (s.setCell a v).reg j = s.reg j := rfl

@[simp] theorem putChar_cfg (c : Byte) : (s.putChar c).cfg = s.cfg := rfl
@[simp] theorem putChar_regs (c : Byte) : (s.putChar c).regs = s.regs := rfl
@[simp] theorem putChar_pc (c : Byte) : (s.putChar c).pc = s.pc := rfl
@[simp] theorem putChar_cc (c : Byte) : (s.putChar c).cc = s.cc := rfl
@[simp] theorem putChar_mem (c : Byte) : (s.putChar c).mem = s.mem := rfl
@[simp] theorem putChar_running (c : Byte) : (s.putChar c).running = s.running := rfl
@[simp] theorem putChar_diag (c : Byte) : (s.putChar c).diag = s.diag := rfl
@[simp] theorem putChar_tt (c : Byte) : (s.putChar c).tt = s.tt := rfl
@[simp] theorem putChar_trapPhase (c : Byte) : (s.putChar c).trapPhase = s.trapPhase := rfl
@[simp] theorem putChar_status (c : Byte) : (s.putChar c).status = s.status := rfl
@[simp] theorem putChar_keys (c : Byte) : (s.putChar c).keys = s.keys := rfl
@[simp] theorem putChar_hook (c : Byte) : (s.putChar c).hook = s.hook := rfl
@[simp] theorem putChar_output (c : Byte) : (s.putChar c).output = s.output ++ [c] := rfl
@[simp] theorem putChar_hostCalls (c : Byte) : (s.putChar c).hostCalls = s.hostCalls := rfl
@[simp] theorem putChar_reg (c : Byte) (j : RegId) : (s.putChar c).reg j = s.reg j := rfl
@[simp] theorem putChar_cell (c : Byte) (a : Word) : (s.putChar c).cell a = s.cell a := rfl

/-- Reading a register after writing one (10_state.md R20). -/
theorem setReg_reg (i j : RegId) (v : Word) : (s.setReg i v).reg j = if j = i then v else s.reg j := by
  simp only [reg, setReg, Vector.getElem_set, Fin.ext_iff, eq_comm]

@[simp] theorem setReg_reg_self (i : RegId) (v : Word) : (s.setReg i v).reg i = v := by
  simp [setReg_reg]

theorem setReg_reg_of_ne {i j : RegId} (v : Word) (h : j ≠ i) : (s.setReg i v).reg j = s.reg j := by
  simp [setReg_reg, h]

@[simp] theorem setMem_cell (m : Memory) (a : Word) : (s.setMem m).cell a = m.read a := rfl

@[simp] theorem setRegs_reg (v : Vector Word 8) (j : RegId) : (s.setRegs v).reg j = v[j.val] := rfl

/-- A register is in the array of registers where its number says. -/
theorem reg_eq (j : RegId) : s.reg j = s.regs[j.val] := rfl

/-- States with equal fields are equal. -/
theorem ext_fields {s t : State} (h1 : s.cfg = t.cfg) (h2 : s.regs = t.regs) (h3 : s.pc = t.pc)
    (h4 : s.cc = t.cc) (h5 : s.mem = t.mem) (h6 : s.running = t.running) (h7 : s.diag = t.diag)
    (h8 : s.tt = t.tt) (h9 : s.trapPhase = t.trapPhase) (h10 : s.status = t.status)
    (h11 : s.keys = t.keys) (h12 : s.hook = t.hook) (h13 : s.output = t.output)
    (h14 : s.hostCalls = t.hostCalls) : s = t := by
  cases s; cases t; simp_all

/-! Writing back what a field holds changes nothing. -/

@[simp] theorem setKeys_same : s.setKeys s.keys = s := rfl
@[simp] theorem setMem_same : s.setMem s.mem = s := rfl
@[simp] theorem putChars_nil : s.putChars [] = s := by simp [putChars]

/-! Updates of the keyboard, the memory and the output, one after another. -/

@[simp] theorem setKeys_setKeys (k k' : List (Option Byte)) :
    (s.setKeys k).setKeys k' = s.setKeys k' := rfl
@[simp] theorem setMem_setMem (m m' : Memory) : (s.setMem m).setMem m' = s.setMem m' := rfl
@[simp] theorem putChars_putChars (a b : List Byte) :
    (s.putChars a).putChars b = s.putChars (a ++ b) := by simp [putChars, List.append_assoc]
theorem setMem_setKeys (m : Memory) (k : List (Option Byte)) :
    (s.setMem m).setKeys k = (s.setKeys k).setMem m := rfl
theorem putChars_setKeys (cs : List Byte) (k : List (Option Byte)) :
    (s.putChars cs).setKeys k = (s.setKeys k).putChars cs := rfl
theorem putChars_setMem (cs : List Byte) (m : Memory) :
    (s.putChars cs).setMem m = (s.setMem m).putChars cs := rfl
theorem putChar_eq (c : Byte) : s.putChar c = s.putChars [c] := rfl
theorem setCell_eq (a v : Word) : s.setCell a v = s.setMem (s.mem.write a v) := rfl

end State

end Sys2Proof.Machine
end

