-- ==== Sys2Proof/Laws/Flags.lean ====
section
/-! SUPPORT. The flags of a value, and what writing a result does. -/

namespace Sys2Proof.Machine

@[simp] theorem Flag.ofWord_zero : Flag.ofWord 0x0000#16 = .z := rfl

/-- The model's flag of a value is the flag 10_state.md R26 gives it. -/
theorem flagOf_ofWord (v : Word) : FlagOf v (Flag.ofWord v) := by
  unfold FlagOf Flag.ofWord
  rw [BitVec.msb_eq_getLsbD_last v]
  by_cases h0 : v = 0x0000#16
  · subst h0; simp
  · rw [if_neg h0]
    cases hb : v.getLsbD (16 - 1) <;> simp_all

/-- The flag of a value is unique. -/
theorem flagOf_unique {v : Word} {f g : Flag} (hf : FlagOf v f) (hg : FlagOf v g) : f = g := by
  obtain ⟨a1, a2, a3⟩ := hf
  obtain ⟨b1, b2, b3⟩ := hg
  cases f
  · exact ((b2.mpr (a2.mp rfl))).symm
  · exact ((b1.mpr (a1.mp rfl))).symm
  · exact ((b3.mpr (a3.mp rfl))).symm

/-- Everything writing a result does (40_operate.md R116). -/
theorem writeResult_eq (dr : RegId) (v : Word) (s : State) :
    writeResult dr v s = (s.setReg dr v).setCc (Flag.ofWord v) := rfl

theorem writeResult_wrote (dr : RegId) (v : Word) (s : State) : WroteResult dr v s (writeResult dr v s) where
  dest := by simp [writeResult_eq]
  regs := by
    intro r hr
    have : r ≠ dr := by simpa using hr
    simp [writeResult_eq, State.setReg_reg, this]
  cc := flagOf_ofWord v
  pc := rfl
  cells := fun _ _ => rfl
  control := ⟨rfl, rfl, rfl, rfl, rfl, rfl, rfl, rfl⟩
  devices := ⟨rfl, rfl⟩

end Sys2Proof.Machine
end

