-- ==== Sys2Proof/Laws/Memory.lean ====
section
/-! SUPPORT. Sparse tables, the memory array and the trap table: read after write, and that every operation
keeps the canonical form. -/

namespace Sys2Proof.Machine

variable {α : Type} (d : α)

/-! ### Sparse tables -/

theorem Sparse.get_filter_self (l : List (Nat × α)) (a : Nat) :
    Sparse.get d (l.filter (fun e => e.1 ≠ a)) a = d := by
  induction l with
  | nil => rfl
  | cons e rest ih =>
    by_cases h : e.1 = a
    · simpa [List.filter_cons, h] using ih
    · simpa [List.filter_cons, h, Sparse.get] using ih

theorem Sparse.get_filter_of_ne (l : List (Nat × α)) {a b : Nat} (h : b ≠ a) :
    Sparse.get d (l.filter (fun e => e.1 ≠ a)) b = Sparse.get d l b := by
  induction l with
  | nil => rfl
  | cons e rest ih =>
    by_cases he : e.1 = a
    · have hb : e.1 ≠ b := fun hb => h (hb.symm.trans he)
      simpa [List.filter_cons, he, Sparse.get, show ¬ a = b from fun hab => h hab.symm] using ih
    · simp only [List.filter_cons, he, ne_eq, not_false_eq_true, decide_true, if_true, Sparse.get]
      split
      · rfl
      · simpa using ih

theorem Sparse.get_insert (l : List (Nat × α)) (a b : Nat) (v : α) (hl : ∀ e ∈ l, e.1 ≠ a) :
    Sparse.get d (Sparse.insert l a v) b = if b = a then v else Sparse.get d l b := by
  induction l with
  | nil => simp [Sparse.insert, Sparse.get, eq_comm]
  | cons e rest ih =>
    have hrest : ∀ f ∈ rest, f.1 ≠ a := fun f hf => hl f (List.mem_cons_of_mem _ hf)
    have he : e.1 ≠ a := hl e List.mem_cons_self
    simp only [Sparse.insert]
    split
    · simp only [Sparse.get, eq_comm]
    · simp only [Sparse.get, ih hrest]
      by_cases hb : e.1 = b
      · have : b ≠ a := fun h => he (hb.trans h)
        simp [hb, this]
      · simp [hb]

/-- Reading a sparse table after a write. -/
theorem Sparse.get_set [DecidableEq α] (l : List (Nat × α)) (a b : Nat) (v : α) :
    Sparse.get d (Sparse.set d l a v) b = if b = a then v else Sparse.get d l b := by
  have hf : ∀ e ∈ l.filter (fun e => e.1 ≠ a), e.1 ≠ a := by
    intro e he; simpa using (List.mem_filter.mp he).2
  unfold Sparse.set
  split
  · next hv =>
    by_cases hb : b = a
    · subst hb; rw [Sparse.get_filter_self]; simp [hv]
    · rw [Sparse.get_filter_of_ne d l hb]; simp [hb]
  · rw [Sparse.get_insert d _ a b v hf]
    by_cases hb : b = a
    · simp [hb]
    · simp only [hb, if_false]; exact Sparse.get_filter_of_ne d l hb

/-- The canonical form, unfolded once. -/
theorem Sparse.wf_cons [DecidableEq α] (bound : Nat) (e : Nat × α) (rest : List (Nat × α)) :
    Sparse.wf d bound (e :: rest) = true ↔
      e.2 ≠ d ∧ e.1 < bound ∧ (∀ f ∈ rest, e.1 < f.1) ∧ Sparse.wf d bound rest = true := by
  simp [Sparse.wf, and_assoc]

theorem Sparse.wf_filter [DecidableEq α] (bound : Nat) (p : Nat × α → Bool) (l : List (Nat × α))
    (h : Sparse.wf d bound l = true) : Sparse.wf d bound (l.filter p) = true := by
  induction l with
  | nil => rfl
  | cons e rest ih =>
    rw [Sparse.wf_cons] at h
    obtain ⟨h1, h2, h3, h4⟩ := h
    rw [List.filter_cons]
    split
    · rw [Sparse.wf_cons]
      exact ⟨h1, h2, fun f hf => h3 f (List.mem_filter.mp hf).1, ih h4⟩
    · exact ih h4

theorem Sparse.mem_insert (l : List (Nat × α)) (a : Nat) (v : α) (f : Nat × α)
    (hf : f ∈ Sparse.insert l a v) : f = (a, v) ∨ f ∈ l := by
  induction l with
  | nil => simpa [Sparse.insert] using hf
  | cons e rest ih =>
    simp only [Sparse.insert] at hf
    split at hf
    · simpa using hf
    · rcases List.mem_cons.mp hf with rfl | hf
      · exact .inr List.mem_cons_self
      · rcases ih hf with h | h
        · exact .inl h
        · exact .inr (List.mem_cons_of_mem _ h)

theorem Sparse.wf_insert [DecidableEq α] (bound : Nat) (l : List (Nat × α)) (a : Nat) (v : α)
    (h : Sparse.wf d bound l = true) (hl : ∀ e ∈ l, e.1 ≠ a) (ha : a < bound) (hv : v ≠ d) :
    Sparse.wf d bound (Sparse.insert l a v) = true := by
  induction l with
  | nil => simp [Sparse.insert, Sparse.wf, ha, hv]
  | cons e rest ih =>
    have hrest : ∀ f ∈ rest, f.1 ≠ a := fun f hf => hl f (List.mem_cons_of_mem _ hf)
    have he : e.1 ≠ a := hl e List.mem_cons_self
    have h' := (Sparse.wf_cons d bound e rest).mp h
    simp only [Sparse.insert]
    split
    · next hlt =>
      rw [Sparse.wf_cons]
      refine ⟨hv, ha, ?_, h⟩
      intro f hf
      rcases List.mem_cons.mp hf with rfl | hf
      · exact hlt
      · exact lt_trans hlt (h'.2.2.1 f hf)
    · next hlt =>
      rw [Sparse.wf_cons]
      refine ⟨h'.1, h'.2.1, ?_, ih h'.2.2.2 hrest⟩
      intro f hf
      rcases Sparse.mem_insert rest a v f hf with rfl | hf
      · show e.1 < a
        omega
      · exact h'.2.2.1 f hf

/-- A write keeps the canonical form. -/
theorem Sparse.wf_set [DecidableEq α] (bound : Nat) (l : List (Nat × α)) (a : Nat) (v : α)
    (h : Sparse.wf d bound l = true) (ha : a < bound) : Sparse.wf d bound (Sparse.set d l a v) = true := by
  have hf : ∀ e ∈ l.filter (fun e => e.1 ≠ a), e.1 ≠ a := by
    intro e he; simpa using (List.mem_filter.mp he).2
  unfold Sparse.set
  split
  · exact Sparse.wf_filter d bound _ l h
  · next hv => exact Sparse.wf_insert d bound _ a v (Sparse.wf_filter d bound _ l h) hf ha hv

/-- A key below every listed key reads as unlisted. -/
theorem Sparse.get_of_lt (l : List (Nat × α)) (a : Nat) (h : ∀ e ∈ l, a < e.1) : Sparse.get d l a = d := by
  induction l with
  | nil => rfl
  | cons e rest ih =>
    have he : e.1 ≠ a := (h e List.mem_cons_self).ne'
    simp [Sparse.get, he, ih (fun f hf => h f (List.mem_cons_of_mem _ hf))]

/-! ### The memory array -/

/-- Read after write (20_memory.md R55, R63(c)). -/
theorem Memory.read_write (m : Memory) (a b v : Word) :
    (m.write a v).read b = if b = a then v else m.read b := by
  simp [Memory.read, Memory.write, Sparse.get_set, BitVec.toNat_inj]

@[simp] theorem Memory.read_write_self (m : Memory) (a v : Word) : (m.write a v).read a = v := by
  simp [Memory.read_write]

theorem Memory.read_write_of_ne (m : Memory) {a b : Word} (v : Word) (h : b ≠ a) :
    (m.write a v).read b = m.read b := by
  simp [Memory.read_write, h]

/-- A write keeps the canonical form. -/
theorem Memory.wf_write (m : Memory) (a v : Word) (h : m.wf = true) : (m.write a v).wf = true :=
  Sparse.wf_set _ _ m a.toNat v h (by simpa using a.isLt)

theorem Memory.wf_writeAll (ws : List Word) : ∀ (m : Memory) (a : Word), m.wf = true →
    (m.writeAll a ws).wf = true := by
  induction ws with
  | nil => intro m a h; exact h
  | cons w rest ih => intro m a h; exact ih _ _ (Memory.wf_write m a w h)

@[simp] theorem Memory.wf_nil : Memory.wf [] = true := rfl

theorem Memory.read_nil (a : Word) : Memory.read [] a = 0x0000#16 := rfl

/-! ### The cells of a state -/

/-- Reading a cell after writing one. -/
theorem State.setCell_cell (s : State) (a b v : Word) :
    (s.setCell a v).cell b = if b = a then v else s.cell b := Memory.read_write s.mem a b v

@[simp] theorem State.setCell_cell_self (s : State) (a v : Word) : (s.setCell a v).cell a = v := by
  simp [State.setCell_cell]

theorem State.setCell_cell_of_ne (s : State) {a b : Word} (v : Word) (h : b ≠ a) :
    (s.setCell a v).cell b = s.cell b := by
  simp [State.setCell_cell, h]

/-! ### The trap table -/

/-- A slot after a binding (10_state.md R32, 70_reset_and_hazards.md R221). -/
theorem TrapTable.lookup_bind (t : TrapTable) (v u : Byte) (r : Routine) :
    (t.bind v r).lookup u = if u = v then some r else t.lookup u := by
  simp [TrapTable.lookup, TrapTable.bind, Sparse.get_set, BitVec.toNat_inj]

/-- A binding keeps the canonical form. -/
theorem TrapTable.wf_bind (t : TrapTable) (v : Byte) (r : Routine) (h : t.wf = true) :
    (t.bind v r).wf = true :=
  Sparse.wf_set _ _ t v.toNat (some r) h (by simpa using v.isLt)

@[simp] theorem TrapTable.wf_architected : TrapTable.wf TrapTable.architected = true := by decide

end Sys2Proof.Machine
end

