-- ==== Sys2Proof/Laws/Ops.lean ====
section
/-! SUPPORT. What each shared operation of Machine/Ops.lean can do, said once. -/

namespace Sys2Proof.Machine

/-! ### Reads through the I/O decoder -/

/-- Everything a read can do to the state (20_memory.md R52, R58): the keyboard loses a first part of its
answers, and only the two keyboard cells are written; nothing at all unless KBSR is read. -/
theorem readEffect_shape (s : State) (a : Word) :
    ∃ k m, readEffect s a = (s.setKeys k).setMem m ∧ k <:+ s.keys ∧
      (∀ x, x ≠ s.cfg.kbsrAddr → x ≠ s.cfg.kbdrAddr → m.read x = s.mem.read x) ∧
      (s.mem.wf = true → m.wf = true) ∧ (a ≠ s.cfg.kbsrAddr → k = s.keys ∧ m = s.mem) := by
  by_cases h : a = s.cfg.kbsrAddr
  · simp only [readEffect, h, if_true, pollKeyboard]
    split
    · next c rest hk =>
      refine ⟨rest, _, rfl, by rw [hk]; exact List.suffix_cons _ _, ?_, ?_, fun hn => absurd rfl hn⟩
      · intro x h1 h2
        simp [Memory.read_write, h1, h2]
      · intro hw
        exact Memory.wf_write _ _ _ (Memory.wf_write s.mem s.cfg.kbsrAddr 0x8000#16 hw)
    · next rest hk =>
      refine ⟨rest, _, rfl, by rw [hk]; exact List.suffix_cons _ _, ?_, ?_, fun hn => absurd rfl hn⟩
      · intro x h1 _
        simp [Memory.read_write, h1]
      · intro hw; exact Memory.wf_write _ _ _ hw
    · next hk =>
      refine ⟨s.keys, _, rfl, List.suffix_refl _, ?_, ?_, fun hn => absurd rfl hn⟩
      · intro x h1 _
        simp [Memory.read_write, h1]
      · intro hw; exact Memory.wf_write _ _ _ hw
  · exact ⟨s.keys, s.mem, by simp [readEffect, h], List.suffix_refl _, fun _ _ _ => rfl, id,
      fun _ => ⟨rfl, rfl⟩⟩

@[simp] theorem memRead_snd (s : State) (a : Word) : (memRead s a).2 = readEffect s a := rfl

@[simp] theorem memRead_fst (s : State) (a : Word) : (memRead s a).1 = (readEffect s a).cell a := rfl

/-- A read away from KBSR has no effect (20_memory.md R58). -/
theorem readEffect_of_ne (s : State) {a : Word} (h : a ≠ s.cfg.kbsrAddr) : readEffect s a = s := by
  simp [readEffect, h]

/-- A read away from KBSR answers the cell and changes nothing (20_memory.md R54, R58). -/
theorem memRead_of_ne (s : State) {a : Word} (h : a ≠ s.cfg.kbsrAddr) : memRead s a = (s.cell a, s) := by
  simp [memRead, readEffect, h]

/-! The fields a read leaves alone. -/

section
variable (s : State) (a : Word)

@[simp] theorem readEffect_cfg : (readEffect s a).cfg = s.cfg := by
  obtain ⟨k, m, h, -⟩ := readEffect_shape s a; rw [h]; rfl
@[simp] theorem readEffect_regs : (readEffect s a).regs = s.regs := by
  obtain ⟨k, m, h, -⟩ := readEffect_shape s a; rw [h]; rfl
@[simp] theorem readEffect_reg (r : RegId) : (readEffect s a).reg r = s.reg r := by
  obtain ⟨k, m, h, -⟩ := readEffect_shape s a; rw [h]; rfl
@[simp] theorem readEffect_pc : (readEffect s a).pc = s.pc := by
  obtain ⟨k, m, h, -⟩ := readEffect_shape s a; rw [h]; rfl
@[simp] theorem readEffect_cc : (readEffect s a).cc = s.cc := by
  obtain ⟨k, m, h, -⟩ := readEffect_shape s a; rw [h]; rfl
@[simp] theorem readEffect_running : (readEffect s a).running = s.running := by
  obtain ⟨k, m, h, -⟩ := readEffect_shape s a; rw [h]; rfl
@[simp] theorem readEffect_diag : (readEffect s a).diag = s.diag := by
  obtain ⟨k, m, h, -⟩ := readEffect_shape s a; rw [h]; rfl
@[simp] theorem readEffect_tt : (readEffect s a).tt = s.tt := by
  obtain ⟨k, m, h, -⟩ := readEffect_shape s a; rw [h]; rfl
@[simp] theorem readEffect_trapPhase : (readEffect s a).trapPhase = s.trapPhase := by
  obtain ⟨k, m, h, -⟩ := readEffect_shape s a; rw [h]; rfl
@[simp] theorem readEffect_status : (readEffect s a).status = s.status := by
  obtain ⟨k, m, h, -⟩ := readEffect_shape s a; rw [h]; rfl
@[simp] theorem readEffect_hook : (readEffect s a).hook = s.hook := by
  obtain ⟨k, m, h, -⟩ := readEffect_shape s a; rw [h]; rfl
@[simp] theorem readEffect_output : (readEffect s a).output = s.output := by
  obtain ⟨k, m, h, -⟩ := readEffect_shape s a; rw [h]; rfl
@[simp] theorem readEffect_hostCalls : (readEffect s a).hostCalls = s.hostCalls := by
  obtain ⟨k, m, h, -⟩ := readEffect_shape s a; rw [h]; rfl

theorem readEffect_keys : (readEffect s a).keys <:+ s.keys := by
  obtain ⟨k, m, h, hk, -⟩ := readEffect_shape s a; rw [h]; exact hk

theorem readEffect_wf (hw : s.mem.wf = true) : (readEffect s a).mem.wf = true := by
  obtain ⟨k, m, h, -, -, hm, -⟩ := readEffect_shape s a; rw [h]; exact hm hw

/-- A read writes no cell but the two keyboard cells. -/
theorem readEffect_cell {x : Word} (h1 : x ≠ s.cfg.kbsrAddr) (h2 : x ≠ s.cfg.kbdrAddr) :
    (readEffect s a).cell x = s.cell x := by
  obtain ⟨k, m, h, -, hm, -⟩ := readEffect_shape s a; rw [h]; exact hm x h1 h2

end

/-! What a read does depends on the parameters, the memory and the keyboard alone. -/

theorem readEffect_setCc (s : State) (a : Word) (f : Flag) :
    readEffect (s.setCc f) a = (readEffect s a).setCc f := by
  by_cases h : a = s.cfg.kbsrAddr
  · rcases hk : s.keys with _ | ⟨_ | c, rest⟩ <;> simp [readEffect, h, pollKeyboard, hk] <;> rfl
  · simp [readEffect, h]

theorem readEffect_putChars (s : State) (a : Word) (cs : List Byte) :
    readEffect (s.putChars cs) a = (readEffect s a).putChars cs := by
  by_cases h : a = s.cfg.kbsrAddr
  · rcases hk : s.keys with _ | ⟨_ | c, rest⟩ <;> simp [readEffect, h, pollKeyboard, hk] <;> rfl
  · simp [readEffect, h]

theorem readEffect_setOutput (s : State) (a : Word) (o : List Byte) :
    readEffect { s with output := o } a = { readEffect s a with output := o } := by
  by_cases h : a = s.cfg.kbsrAddr
  · rcases hk : s.keys with _ | ⟨_ | c, rest⟩ <;> simp [readEffect, h, pollKeyboard, hk] <;> rfl
  · simp [readEffect, h]

/-! The poll a read of KBSR makes (20_memory.md R52, R53). -/

theorem pollKeyboard_key (s : State) {c : Byte} {rest : List (Option Byte)} (h : s.keys = some c :: rest) :
    pollKeyboard s =
      ((s.setKeys rest).setCell s.cfg.kbsrAddr 0x8000#16).setCell s.cfg.kbdrAddr (zext16 c) := by
  simp [pollKeyboard, h]

theorem pollKeyboard_no_key (s : State) {rest : List (Option Byte)} (h : s.keys = none :: rest) :
    pollKeyboard s = (s.setKeys rest).setCell s.cfg.kbsrAddr 0x0000#16 := by
  simp [pollKeyboard, h]

theorem pollKeyboard_empty (s : State) (h : s.keys = []) :
    pollKeyboard s = s.setCell s.cfg.kbsrAddr 0x0000#16 := by
  simp [pollKeyboard, h]

/-- The status word a read of KBSR answers is 0x8000 or 0x0000, provided KBDR is another address
(20_memory.md R53). -/
theorem readEffect_kbsr_cell (s : State) (h : s.cfg.kbsrAddr ≠ s.cfg.kbdrAddr) :
    (readEffect s s.cfg.kbsrAddr).cell s.cfg.kbsrAddr = 0x8000#16 ∨
      (readEffect s s.cfg.kbsrAddr).cell s.cfg.kbsrAddr = 0x0000#16 := by
  simp only [readEffect, if_true, pollKeyboard]
  split
  · left
    rw [State.setCell_cell_of_ne _ _ h, State.setCell_cell_self]
  · right; simp
  · right; simp

/-! ### The fault policy -/

/-- Everything `raise` can do (60_exceptions.md R182). -/
theorem raise_cases (f : RuntimeFault) (s : State) :
    (s.cfg.strict = false ∧ raise f s = s) ∨
      (s.cfg.strict = true ∧
        raise f s = ((s.setDiag (some f)).setRunning false).setStatus (some .halted)) := by
  cases h : s.cfg.strict <;> simp [raise, haltAction, h]

theorem raise_lenient (f : RuntimeFault) (s : State) (h : s.cfg.strict = false) : raise f s = s := by
  simp [raise, h]

theorem raise_strict (f : RuntimeFault) (s : State) (h : s.cfg.strict = true) :
    raise f s = ((s.setDiag (some f)).setRunning false).setStatus (some .halted) := by
  simp [raise, haltAction, h]

/-! ### Fetch and hook -/

@[simp] theorem fetch_fst (s : State) : (fetch s).1 = (readEffect s s.pc).cell s.pc := rfl

@[simp] theorem fetch_snd (s : State) :
    (fetch s).2 = ((readEffect s s.pc).setPc (s.pc + 1)).setStatus (some .continued) := rfl

theorem hookAnswer_eq_cancel (s : State) : hookAnswer s = .cancel ↔ s.hook.head? = some .cancel := by
  simp only [hookAnswer]
  split <;> simp_all

theorem hookAnswer_congr {s t : State} (h : s.hook = t.hook) : hookAnswer s = hookAnswer t := by
  simp [hookAnswer, h]

end Sys2Proof.Machine
end

