-- ==== Sys2Proof/Laws/LoadStore.lean ====
section
/-! SUPPORT. Sums with sign-extended fields, and everything a load and a store do. -/

namespace Sys2Proof.Machine

/-- A sum with a sign-extended field is the sum with the field's signed reading (30_encoding.md R86). -/
theorem add_signExtend {n : Nat} (hn : n ≤ 16) (a : Word) (f : BitVec n) :
    a + f.signExtend 16 = BitVec.ofInt 16 ((a.toNat : Int) + f.toInt) := by
  have h1 : (f.signExtend 16).toInt = f.toInt := BitVec.toInt_signExtend_of_le hn
  apply BitVec.eq_of_toInt_eq
  rw [BitVec.toInt_add, h1, BitVec.toInt_ofInt, BitVec.toInt_eq_toNat_bmod]
  simp

/-- Everything loading a word does (42_load_store.md R130 to R132). -/
theorem loadFrom_loadedFrom (dr : RegId) (a : Word) (s : State) : LoadedFrom a dr s (loadFrom dr a s) where
  dest := (writeResult_wrote dr _ _).dest
  regs := fun r hr => ((writeResult_wrote dr (memRead s a).1 (memRead s a).2).regs r hr).trans (by simp)
  cc := flagOf_ofWord _
  pc := readEffect_pc s a
  cells := fun _ _ => rfl
  keys := rfl
  output := readEffect_output s a
  control := ⟨readEffect_cfg s a, readEffect_running s a, readEffect_diag s a, readEffect_tt s a,
    readEffect_trapPhase s a, readEffect_status s a, readEffect_hook s a, readEffect_hostCalls s a⟩

/-- Away from KBSR a load takes the cell's content and touches nothing but its destination. -/
theorem loadFrom_of_ne (dr : RegId) {a : Word} (s : State) (h : a ≠ s.cfg.kbsrAddr) :
    loadFrom dr a s = writeResult dr (s.cell a) s := by
  simp [loadFrom, readEffect_of_ne s h]

/-- Everything a store does (20_memory.md R55). -/
theorem memWrite_stored (s : State) (a v : Word) : Stored a v s (memWrite s a v) where
  stored := s.setCell_cell_self a v
  cells := fun _ hb => s.setCell_cell_of_ne v (by simpa using hb)
  regs := fun _ _ => rfl
  cc := rfl
  pc := rfl
  control := ⟨rfl, rfl, rfl, rfl, rfl, rfl, rfl, rfl⟩
  devices := ⟨rfl, rfl⟩

end Sys2Proof.Machine
end

