-- ==== Sys2Proof/Laws/PerInstr.lean ====
section
/-! SUPPORT. The family EncodesItsRow: every encoded instruction has the fixed bits of its row of
spec/opcode_table.json, one lemma per constructor. -/

namespace Sys2Proof.Laws.EncodesItsRow

/-- The encoded instruction is admitted by its row, and the row is one of the table's. -/
def Statement (i : Instr) : Prop := i.row.admits (encode i) ∧ i.row ∈ opcodeRows

/-- The opcode and, where the row fixes it, bit 5 or bit 11, read off the encoding bit by bit. -/
theorem encode_admits (i : Instr) : i.row.admits (encode i) := by
  refine BitVec.eq_of_getLsbD_eq fun k hk => ?_
  cases i <;> simp only [Instr.row, encode, BitVec.getLsbD_and, BitVec.getLsbD_cast] <;>
    interval_cases k <;> simp only [BitVec.getLsbD_append] <;> simp

/-- The row of an instruction is one of the table's. -/
theorem row_mem (i : Instr) : i.row ∈ opcodeRows := by cases i <;> simp [Instr.row, opcodeRows]

theorem holds (i : Instr) : Statement i := ⟨encode_admits i, row_mem i⟩

theorem br (nzp : BitVec 3) (off9 : BitVec 9) : Statement (.br nzp off9) := holds _
theorem addReg (dr sr1 sr2 : RegId) : Statement (.addReg dr sr1 sr2) := holds _
theorem addImm (dr sr1 : RegId) (imm5 : BitVec 5) : Statement (.addImm dr sr1 imm5) := holds _
theorem ld (dr : RegId) (off9 : BitVec 9) : Statement (.ld dr off9) := holds _
theorem st (sr : RegId) (off9 : BitVec 9) : Statement (.st sr off9) := holds _
theorem jsr (off11 : BitVec 11) : Statement (.jsr off11) := holds _
theorem jsrr (baseR : RegId) : Statement (.jsrr baseR) := holds _
theorem andReg (dr sr1 sr2 : RegId) : Statement (.andReg dr sr1 sr2) := holds _
theorem andImm (dr sr1 : RegId) (imm5 : BitVec 5) : Statement (.andImm dr sr1 imm5) := holds _
theorem ldr (dr baseR : RegId) (off6 : BitVec 6) : Statement (.ldr dr baseR off6) := holds _
theorem str (sr baseR : RegId) (off6 : BitVec 6) : Statement (.str sr baseR off6) := holds _
theorem rti (low : BitVec 12) : Statement (.rti low) := holds _
theorem notReg (dr sr1 : RegId) : Statement (.notReg dr sr1) := holds _
theorem ldi (dr : RegId) (off9 : BitVec 9) : Statement (.ldi dr off9) := holds _
theorem sti (sr : RegId) (off9 : BitVec 9) : Statement (.sti sr off9) := holds _
theorem jmp (baseR : RegId) : Statement (.jmp baseR) := holds _
theorem res (low : BitVec 12) : Statement (.res low) := holds _
theorem lea (dr : RegId) (off9 : BitVec 9) : Statement (.lea dr off9) := holds _
theorem trap (trapvect8 : BitVec 8) : Statement (.trap trapvect8) := holds _

end Sys2Proof.Laws.EncodesItsRow
end

