-- ==== Sys2Proof/Laws/Trap.lean ====
section
/-! SUPPORT. What the routines of the trap table can do, said once. -/

namespace Sys2Proof.Machine

/-! ### The keyboard -/

/-- A key that `readKey` answers stood among the answers to come, and what is left is a last part of them. -/
theorem readKey_some {k rest : List (Option Byte)} {c : Byte} (h : readKey k = some (c, rest)) :
    rest <:+ k ∧ some c ∈ k := by
  induction k with
  | nil => simp [readKey] at h
  | cons e k ih =>
    cases e with
    | none =>
      obtain ⟨h1, h2⟩ := ih h
      exact ⟨h1.trans (List.suffix_cons _ _), List.mem_cons_of_mem _ h2⟩
    | some b =>
      simp only [readKey, Option.some.injEq, Prod.mk.injEq] at h
      obtain ⟨rfl, rfl⟩ := h
      exact ⟨List.suffix_cons _ _, List.mem_cons_self⟩

/-- No key comes exactly when none stands among the answers to come. -/
theorem readKey_none {k : List (Option Byte)} : readKey k = none ↔ ∀ c, some c ∉ k := by
  induction k with
  | nil => simp [readKey]
  | cons e k ih =>
    cases e with
    | none => simp [readKey, ih]
    | some b => simp only [readKey, reduceCtorEq, false_iff, not_forall, not_not]
                exact ⟨b, List.mem_cons_self⟩

/-! ### The loops of PUTS and PUTSP -/

/-- What a scan leaves: the keyboard, the two keyboard cells and the output may have changed. -/
structure ScanStep (s t : State) : Prop where
  shape : ∃ k m cs, t = ((s.setKeys k).setMem m).putChars cs
  keys : t.keys <:+ s.keys
  cells : ∀ x, x ≠ s.cfg.kbsrAddr → x ≠ s.cfg.kbdrAddr → t.cell x = s.cell x
  wf : s.mem.wf = true → t.mem.wf = true

theorem ScanStep.refl (s : State) : ScanStep s s :=
  ⟨⟨s.keys, s.mem, [], by simp⟩, List.suffix_refl _, fun _ _ _ => rfl, id⟩

theorem ScanStep.trans {s t u : State} (h1 : ScanStep s t) (h2 : ScanStep t u) : ScanStep s u := by
  obtain ⟨⟨k, m, cs, rfl⟩, hk1, hc1, hw1⟩ := h1
  obtain ⟨⟨k', m', cs', rfl⟩, hk2, hc2, hw2⟩ := h2
  refine ⟨⟨k', m', cs ++ cs', ?_⟩, hk2.trans hk1, ?_, fun h => hw2 (hw1 h)⟩
  · simp [State.putChars_setMem, State.putChars_setKeys, State.setMem_setKeys]
  · intro x h1 h2
    exact (hc2 x h1 h2).trans (hc1 x h1 h2)

theorem ScanStep.read (s : State) (a : Word) : ScanStep s (memRead s a).2 := by
  obtain ⟨k, m, h, hk, hm, hw, -⟩ := readEffect_shape s a
  refine ⟨⟨k, m, [], by simp [h]⟩, ?_, ?_, ?_⟩
  · simpa [h] using hk
  · intro x h1 h2; rw [memRead_snd, h]; exact hm x h1 h2
  · simpa [h] using hw

theorem ScanStep.put (s : State) (c : Byte) : ScanStep s (s.putChar c) :=
  ⟨⟨s.keys, s.mem, [c], rfl⟩, List.suffix_refl _, fun _ _ _ => rfl, id⟩

theorem putsScan_step (n : Nat) : ∀ (a : Word) (s : State), ScanStep s (putsScan n a s).2 := by
  induction n with
  | zero => intro a s; exact ScanStep.refl s
  | succ n ih =>
    intro a s
    unfold putsScan
    split
    · exact ScanStep.read s a
    · exact ((ScanStep.read s a).trans (ScanStep.put _ _)).trans (ih _ _)

theorem putspScan_step (n : Nat) : ∀ (a : Word) (s : State), ScanStep s (putspScan n a s).2 := by
  induction n with
  | zero => intro a s; exact ScanStep.refl s
  | succ n ih =>
    intro a s
    unfold putspScan
    split
    · exact ScanStep.read s a
    · split
      · exact (ScanStep.read s a).trans (ScanStep.put _ _)
      · exact (((ScanStep.read s a).trans (ScanStep.put _ _)).trans (ScanStep.put _ _)).trans (ih _ _)

/-! ### Host-bound routines -/

theorem hostWrites_wf (ws : List (Word × Word)) : ∀ m : Memory, m.wf = true →
    (hostWrites m ws).wf = true := by
  induction ws with
  | nil => intro m h; exact h
  | cons w rest ih => intro m h; exact ih _ (Memory.wf_write m _ _ h)

/-- The two ways a host-bound routine can go. -/
theorem runHost_cases (id : Nat) (s : State) :
    let e := Config.hostRoutine id s.hostCalls (hostView s)
    (e.completes = true ∧ runHost id s = finishTrap (applyHostEffect e s.countHostCall)) ∨
      (e.completes = false ∧ runHost id s = stayInT3 (.host id) (applyHostEffect e s.countHostCall)) := by
  intro e
  cases h : e.completes
  · exact .inr ⟨rfl, by simp only [runHost]; rw [if_neg]; simpa using h⟩
  · exact .inl ⟨rfl, by simp only [runHost]; rw [if_pos]; exact h⟩

/-! ### Any routine -/

/-- What phase T3 and T4 do to the state, whatever the routine (43_reserved_and_trap.md R152, R154,
44_trap_routines.md R160). -/
structure RoutineStep (s t : State) : Prop where
  cfg : t.cfg = s.cfg
  tt : t.tt = s.tt
  diag : t.diag = s.diag
  hook : t.hook = s.hook
  keys : t.keys <:+ s.keys
  output : s.output <+: t.output
  running : t.running = true → s.running = true
  wf : s.mem.wf = true → t.mem.wf = true
  status : t.status = none ∨ t.status = s.status ∨ t.status = some .halted ∧ t.running = false
  phase : t.trapPhase = .idle ∧ t.pc = t.reg 7 ∨ t.trapPhase ≠ .idle ∧ t.status = none ∧ t.pc = s.pc

theorem RoutineStep.finish {s t : State} (h1 : t.cfg = s.cfg) (h2 : t.tt = s.tt) (h3 : t.diag = s.diag)
    (h4 : t.hook = s.hook) (h5 : t.keys <:+ s.keys) (h6 : s.output <+: t.output)
    (h7 : t.running = true → s.running = true) (h8 : s.mem.wf = true → t.mem.wf = true)
    (h9 : t.status = s.status ∨ t.status = some .halted ∧ t.running = false) :
    RoutineStep s (finishTrap t) :=
  ⟨h1, h2, h3, h4, h5, h6, h7, h8, .inr h9, .inl ⟨rfl, rfl⟩⟩

theorem RoutineStep.stay {s t : State} {p : TrapPhase} (hp : p ≠ .idle) (h1 : t.cfg = s.cfg)
    (h2 : t.tt = s.tt) (h3 : t.diag = s.diag) (h4 : t.hook = s.hook) (h5 : t.keys <:+ s.keys)
    (h6 : s.output <+: t.output) (h7 : t.running = true → s.running = true)
    (h8 : s.mem.wf = true → t.mem.wf = true) (h9 : t.pc = s.pc) : RoutineStep s (stayInT3 p t) :=
  ⟨h1, h2, h3, h4, h5, h6, h7, h8, .inl rfl, .inr ⟨hp, rfl, h9⟩⟩

theorem ScanStep.output {s t : State} (h : ScanStep s t) : s.output <+: t.output := by
  obtain ⟨⟨k, m, cs, rfl⟩, -⟩ := h
  exact List.prefix_append _ _

theorem ScanStep.fields {s t : State} (h : ScanStep s t) :
    t.cfg = s.cfg ∧ t.regs = s.regs ∧ t.pc = s.pc ∧ t.cc = s.cc ∧ t.running = s.running ∧
      t.diag = s.diag ∧ t.tt = s.tt ∧ t.trapPhase = s.trapPhase ∧ t.status = s.status ∧
      t.hook = s.hook ∧ t.hostCalls = s.hostCalls := by
  obtain ⟨⟨k, m, cs, rfl⟩, -⟩ := h
  exact ⟨rfl, rfl, rfl, rfl, rfl, rfl, rfl, rfl, rfl, rfl, rfl⟩

theorem ScanStep.toFinish {s t : State} (h : ScanStep s t) : RoutineStep s (finishTrap t) := by
  obtain ⟨h1, -, -, -, h5, h6, h7, -, h9, h10, -⟩ := h.fields
  exact .finish h1 h7 h6 h10 h.keys h.output (fun hr => h5 ▸ hr) h.wf (.inl h9)

theorem ScanStep.toStay {s t : State} {p : TrapPhase} (hp : p ≠ .idle) (h : ScanStep s t) :
    RoutineStep s (stayInT3 p t) := by
  obtain ⟨h1, -, h3, -, h5, h6, h7, -, -, h10, -⟩ := h.fields
  exact .stay hp h1 h7 h6 h10 h.keys h.output (fun hr => h5 ▸ hr) h.wf h3

theorem runGetc_step (s : State) : RoutineStep s (runGetc s) := by
  unfold runGetc
  split
  · exact .stay (by simp) rfl rfl rfl rfl (List.suffix_refl _) (List.prefix_refl _) id id rfl
  · next c rest h =>
    exact .finish rfl rfl rfl rfl (readKey_some h).1 (List.prefix_refl _) id id (.inl rfl)

theorem runOut_step (s : State) : RoutineStep s (runOut s) :=
  .finish rfl rfl rfl rfl (List.suffix_refl _) (List.prefix_append _ _) id id (.inl rfl)

theorem runInput_step (s : State) : RoutineStep s (runInput s) := by
  unfold runInput
  split
  · exact .stay (by simp) rfl rfl rfl rfl (List.suffix_refl _) (List.prefix_refl _) id id rfl
  · next c rest h =>
    have hk := (readKey_some h).1
    simp only [inputResult]
    split
    · exact .finish rfl rfl rfl rfl hk (List.prefix_append _ _) id id (.inl rfl)
    · exact .finish rfl rfl rfl rfl hk (List.prefix_append _ _) id id (.inl rfl)

theorem runPuts_step (a : Word) (s : State) : RoutineStep s (runPuts a s) := by
  have h := putsScan_step scanLimit a s
  unfold runPuts
  split
  · next t ht => rw [ht] at h; exact h.toFinish
  · next b t ht => rw [ht] at h; exact h.toStay (by simp)

theorem runPutsp_step (a : Word) (s : State) : RoutineStep s (runPutsp a s) := by
  have h := putspScan_step scanLimit a s
  unfold runPutsp
  split
  · next t ht => rw [ht] at h; exact h.toFinish
  · next b t ht => rw [ht] at h; exact h.toStay (by simp)

theorem runHalt_step (s : State) : RoutineStep s (runHalt s) :=
  .finish rfl rfl rfl rfl (List.suffix_refl _) (List.prefix_refl _) (fun h => by simp [haltAction] at h) id
    (.inr ⟨rfl, rfl⟩)

theorem runHost_step (id : Nat) (s : State) : RoutineStep s (runHost id s) := by
  have hr : ∀ e : HostEffect, (applyHostEffect e s.countHostCall).running = true → s.running = true := by
    intro e h; simp [applyHostEffect] at h; exact h.1
  rcases runHost_cases id s with ⟨-, h⟩ | ⟨-, h⟩ <;> rw [h]
  · exact .finish rfl rfl rfl rfl (List.drop_suffix _ _) (List.prefix_append _ _) (hr _)
      (fun hw => hostWrites_wf _ _ hw) (.inl rfl)
  · exact .stay (by simp) rfl rfl rfl rfl (List.drop_suffix _ _) (List.prefix_append _ _) (hr _)
      (fun hw => hostWrites_wf _ _ hw) rfl

theorem startRoutine_step (r : Routine) (s : State) : RoutineStep s (startRoutine r s) := by
  cases r with
  | getc => exact runGetc_step s
  | out => exact runOut_step s
  | puts => exact runPuts_step _ s
  | input => exact runInput_step s
  | putsp => exact runPutsp_step _ s
  | halt => exact runHalt_step s
  | host id => exact runHost_step id s

theorem continueRoutine_step (p : TrapPhase) (hp : p ≠ .idle) (s : State) :
    RoutineStep s (continueRoutine p s) := by
  cases p with
  | idle => exact absurd rfl hp
  | getc => exact runGetc_step s
  | input => exact runInput_step s
  | puts a => exact runPuts_step a s
  | putsp a => exact runPutsp_step a s
  | host id => exact runHost_step id s

/-- The two ways a TRAP can go from phase T2 on (43_reserved_and_trap.md R152). -/
theorem dispatchTrap_cases (v : Byte) (s : State) :
    (∃ r, s.tt.lookup v = some r ∧ dispatchTrap v s = startRoutine r s) ∨
      (s.tt.lookup v = none ∧ dispatchTrap v s = trapReturn (raise (.unboundTrapVector v) s)) := by
  cases h : s.tt.lookup v with
  | none => exact .inr ⟨rfl, by simp [dispatchTrap, h]⟩
  | some r => exact .inl ⟨r, rfl, by simp [dispatchTrap, h]⟩

/-- What a TRAP can leave as the status of its Step. -/
theorem dispatchTrap_status (v : Byte) (s : State) :
    (dispatchTrap v s).status = none ∨ (dispatchTrap v s).status = s.status ∨
      (dispatchTrap v s).status = some .halted ∧ (dispatchTrap v s).running = false := by
  rcases dispatchTrap_cases v s with ⟨r, -, h⟩ | ⟨-, h⟩ <;> rw [h]
  · exact (startRoutine_step r s).status
  · simp only [raise]
    split
    · exact .inr (.inr ⟨rfl, rfl⟩)
    · exact .inr (.inl rfl)

end Sys2Proof.Machine
end

