-- ==== Sys2Proof/Laws/Step.lean ====
section
/-! SUPPORT. The three ways a step can go, and that a word placed by withFetchWord is the next to run. -/

namespace Sys2Proof.Machine

/-- Everything a step can be (10_state.md R34): a TRAP going on in T3, a cancelled step, or the decoded
instruction run on the state after fetch and hook. -/
theorem step_cases (s : State) :
    (s.trapPhase ≠ .idle ∧ step s = .next (resumeTrap s)) ∨
      (s.trapPhase = .idle ∧ hookAnswer s = .cancel ∧
        step s = .next ((consultHook (fetch s).2).setStatus (some .cancelled))) ∨
      (s.trapPhase = .idle ∧ hookAnswer s = .goOn ∧
        step s = exec (decode (fetch s).1) (consultHook (fetch s).2)) := by
  have hh : hookAnswer (fetch s).2 = hookAnswer s := hookAnswer_congr (by simp)
  by_cases hp : s.trapPhase = .idle
  · right
    cases ha : hookAnswer s
    · exact .inr ⟨hp, rfl, by simp only [step, hp, if_true, hh, ha]⟩
    · exact .inl ⟨hp, rfl, by simp only [step, hp, if_true, hh, ha]⟩
  · exact .inl ⟨hp, by simp only [step, hp, if_false]⟩

/-- What an instruction can leave as the status of its Step (10_state.md R34): none while its TRAP is in T3,
what it found, or halted with the run flag clear. -/
theorem exec_status {i : Instr} {s t : State} (h : exec i s = .next t) :
    t.status = none ∨ t.status = s.status ∨ t.status = some .halted ∧ t.running = false := by
  have hr : ∀ f, (raise f s).status = s.status ∨
      (raise f s).status = some .halted ∧ (raise f s).running = false := by
    intro f
    simp only [raise]
    split
    · exact .inr ⟨rfl, rfl⟩
    · exact .inl rfl
  cases i <;> cases h
  case trap v => exact dispatchTrap_status v (trapEntry s)
  case res low => exact .inr (hr _)
  case rti low => exact .inr (hr _)
  case br nzp off9 => split <;> exact .inr (.inl rfl)
  case ld dr off9 => exact .inr (.inl (readEffect_status _ _))
  case ldr dr baseR off6 => exact .inr (.inl (readEffect_status _ _))
  case ldi dr off9 => exact .inr (.inl ((readEffect_status _ _).trans (readEffect_status _ _)))
  case sti sr off9 => exact .inr (.inl (readEffect_status s _))
  all_goals exact .inr (.inl rfl)

/-- A Step returns cancelled only where no TRAP was in T3 and the hook answered cancel (10_state.md R34). -/
theorem step_cancelled {s t : State} (h : step s = .next t) (hc : t.status = some .cancelled) :
    s.trapPhase = .idle ∧ hookAnswer s = .cancel ∧
      t = (consultHook (fetch s).2).setStatus (some .cancelled) := by
  rcases step_cases s with ⟨hp, e⟩ | ⟨hp, ha, e⟩ | ⟨-, -, e⟩ <;> rw [e] at h
  · cases h
    have hs := (continueRoutine_step s.trapPhase hp (s.setStatus (some .continued))).status
    rw [show continueRoutine s.trapPhase (s.setStatus (some .continued)) = resumeTrap s from rfl, hc] at hs
    simp at hs
  · exact ⟨hp, ha, (Host.Outcome.next.inj h).symm⟩
  · have hs := exec_status h
    rw [hc] at hs
    simp [fetch, consultHook] at hs

theorem hookAnswer_dropCancels (h : List HookAnswer) : (dropCancels h).head? ≠ some .cancel := by
  induction h with
  | nil => simp [dropCancels]
  | cons a rest ih => cases a <;> simp [dropCancels, ih]

/-- withFetchWord does what it says: the next step runs the instruction of the word placed. -/
theorem step_withFetchWord (s : State) (w : Nat) :
    step (s.withFetchWord 16 w) =
      exec (decode (BitVec.ofNat 16 (w % 2 ^ 16)))
        (consultHook (fetch (s.withFetchWord 16 w)).2) := by
  have hpc : s.fetchPoint ≠ s.cfg.kbsrAddr := by
    unfold State.fetchPoint
    split
    · next h => rw [h]; intro h'; have := congrArg BitVec.toNat h'; simp [BitVec.toNat_add] at this; omega
    · assumption
  have hw : (fetch (s.withFetchWord 16 w)).1 = BitVec.ofNat 16 (w % 2 ^ 16) := by
    rw [fetch_fst, readEffect_of_ne]
    · exact Memory.read_write_self _ _ _
    · exact hpc
  have hn := hookAnswer_dropCancels s.hook
  rcases step_cases (s.withFetchWord 16 w) with ⟨h, -⟩ | ⟨-, h, -⟩ | ⟨-, -, h⟩
  · exact absurd rfl h
  · exact absurd ((hookAnswer_eq_cancel _).mp h) hn
  · rw [h, hw]

end Sys2Proof.Machine
end

