-- ==== Sys2Proof/Tests/Slice0.lean ====
section
/-! SUPPORT. The model's own tests, their expected results taken from spec/95_test_vectors.md (the vector is named
in each docstring), and for every statement with hypotheses a state and operands that meet them. -/

namespace Sys2Proof.Tests

open Sys2Proof Sys2Proof.Machine

/-! ### Helpers -/

/-- The reset state with a word at 0x3000 and what `f` sets. -/
def start (w : Word) (f : State → State := id) : State := f (State.reset.setCell 0x3000#16 w)

/-- The state after one step. -/
def after (s : State) : State :=
  match step s with
  | .next t => t
  | .fault r => nomatch r
  | .refused _ => s

/-- The state with an instruction run on it. -/
def ran (i : Instr) (s : State) : State :=
  match exec i s with
  | .next t => t
  | .fault r => nomatch r
  | .refused _ => s

/-- A state in strict mode. -/
def strictly (s : State) : State := { s with cfg := { s.cfg with strict := true } }

/-! ### The well-formedness check refuses each ill-formed operand (30_encoding.md R86, R102) -/

theorem test_wf_refuses_register_8 :
    (Spelled.addReg 8 0 0).wellFormed = false ∧ (Spelled.addReg 0 8 0).wellFormed = false ∧
    (Spelled.addReg 0 0 8).wellFormed = false ∧ (Spelled.andReg 8 0 0).wellFormed = false ∧
    (Spelled.andReg 0 8 0).wellFormed = false ∧ (Spelled.andReg 0 0 8).wellFormed = false ∧
    (Spelled.addImm 8 0 0).wellFormed = false ∧ (Spelled.addImm 0 8 0).wellFormed = false ∧
    (Spelled.andImm 8 0 0).wellFormed = false ∧ (Spelled.andImm 0 8 0).wellFormed = false ∧
    (Spelled.notReg 8 0).wellFormed = false ∧ (Spelled.notReg 0 8).wellFormed = false := by decide

theorem test_wf_refuses_register_8_memory_and_control :
    (Spelled.ld 8 0).wellFormed = false ∧ (Spelled.ldi 8 0).wellFormed = false ∧
    (Spelled.lea 8 0).wellFormed = false ∧ (Spelled.st 8 0).wellFormed = false ∧
    (Spelled.sti 8 0).wellFormed = false ∧ (Spelled.ldr 8 0 0).wellFormed = false ∧
    (Spelled.ldr 0 8 0).wellFormed = false ∧ (Spelled.str 8 0 0).wellFormed = false ∧
    (Spelled.str 0 8 0).wellFormed = false ∧ (Spelled.jmp 8).wellFormed = false ∧
    (Spelled.jsrr 8).wellFormed = false := by decide

theorem test_wf_refuses_imm5 :
    (Spelled.addImm 0 0 16).wellFormed = false ∧ (Spelled.addImm 0 0 (-17)).wellFormed = false ∧
    (Spelled.andImm 0 0 16).wellFormed = false ∧ (Spelled.addImm 0 0 15).wellFormed = true ∧
    (Spelled.addImm 0 0 (-16)).wellFormed = true := by decide

theorem test_wf_refuses_off6 :
    (Spelled.ldr 0 0 32).wellFormed = false ∧ (Spelled.str 0 0 (-33)).wellFormed = false ∧
    (Spelled.ldr 0 0 31).wellFormed = true ∧ (Spelled.str 0 0 (-32)).wellFormed = true := by decide

theorem test_wf_refuses_off9 :
    (Spelled.br true true true 256).wellFormed = false ∧ (Spelled.ld 0 (-257)).wellFormed = false ∧
    (Spelled.ldi 0 256).wellFormed = false ∧ (Spelled.lea 0 256).wellFormed = false ∧
    (Spelled.st 0 256).wellFormed = false ∧ (Spelled.sti 0 256).wellFormed = false ∧
    (Spelled.br true true true 255).wellFormed = true ∧ (Spelled.ld 0 (-256)).wellFormed = true := by decide

theorem test_wf_refuses_off11 :
    (Spelled.jsr 1024).wellFormed = false ∧ (Spelled.jsr (-1025)).wellFormed = false ∧
    (Spelled.jsr 1023).wellFormed = true ∧ (Spelled.jsr (-1024)).wellFormed = true := by decide

theorem test_wf_refuses_vector_256 :
    (Spelled.trap 256).wellFormed = false ∧ (Spelled.trap 256).assemble = none ∧
    (Spelled.trap 255).wellFormed = true := by decide

/-- Aliases (30_encoding.md R101): RET 0xC1C0, NOP 0x0000, HALT 0xF025. -/
theorem test_aliases :
    Spelled.ret.assemble.map encode = some 0xC1C0#16 ∧ Spelled.nop.assemble.map encode = some 0x0000#16 ∧
    Spelled.halt.assemble.map encode = some 0xF025#16 ∧ Spelled.getc.assemble.map encode = some 0xF020#16 := by
  decide

/-! ### Decoding: words of V2, written out from 30_encoding.md R83 -/

theorem test_decode_operate :
    decode 0b0001_010_001_000_011#16 = .addReg 2 1 3 ∧ decode 0b0001_010_001_011_011#16 = .addReg 2 1 3 ∧
    decode 0b0001_001_001_1_11111#16 = .addImm 1 1 0b11111#5 ∧
    decode 0b0101_010_001_000_011#16 = .andReg 2 1 3 ∧ decode 0b0101_000_000_1_00000#16 = .andImm 0 0 0#5 ∧
    decode 0b1001_001_010_111111#16 = .notReg 1 2 ∧ decode 0b1001_001_010_000000#16 = .notReg 1 2 := by decide

theorem test_decode_control :
    decode 0b0000_010_000000010#16 = .br 0b010#3 2#9 ∧ decode 0b0000_111_111111111#16 = .br 0b111#3 0x1FF#9 ∧
    decode 0b1100_000_111_000000#16 = .jmp 7 ∧ decode 0b1100_111_111_111111#16 = .jmp 7 ∧
    decode 0b0100_1_00000000010#16 = .jsr 2#11 ∧ decode 0b0100_1_11111111111#16 = .jsr 0x7FF#11 ∧
    decode 0b0100_0_00_011_000000#16 = .jsrr 3 := by decide

theorem test_decode_load_store :
    decode 0b0010_001_000000010#16 = .ld 1 2#9 ∧ decode 0b1010_001_000000010#16 = .ldi 1 2#9 ∧
    decode 0b0110_001_010_111111#16 = .ldr 1 2 0x3F#6 ∧ decode 0b1110_000_000000001#16 = .lea 0 1#9 ∧
    decode 0b0011_000_000000000#16 = .st 0 0#9 ∧ decode 0b1011_001_000000010#16 = .sti 1 2#9 ∧
    decode 0b0111_001_010_000011#16 = .str 1 2 3#6 := by decide

theorem test_decode_reserved_and_trap :
    decode 0b1000_101010111100#16 = .rti 0xABC#12 ∧ decode 0b1101_111111111111#16 = .res 0xFFF#12 ∧
    decode 0b1111_0000_00100101#16 = .trap 0x25#8 ∧ decode 0b1111_1111_00100101#16 = .trap 0x25#8 := by decide

/-- The canonical encodings of V2. -/
theorem test_encode :
    encode (.addReg 2 1 3) = 0x1443#16 ∧ encode (.addImm 1 1 0x1F#5) = 0x127F#16 ∧
    encode (.andReg 2 1 3) = 0x5443#16 ∧ encode (.andImm 0 0 0#5) = 0x5020#16 ∧
    encode (.notReg 1 2) = 0x92BF#16 ∧ encode (.br 0b010#3 2#9) = 0x0402#16 ∧ encode (.jmp 7) = 0xC1C0#16 ∧
    encode (.jsr 2#11) = 0x4802#16 ∧ encode (.jsrr 3) = 0x40C0#16 ∧ encode (.ld 1 2#9) = 0x2202#16 ∧
    encode (.ldi 1 2#9) = 0xA202#16 ∧ encode (.ldr 1 2 0x3F#6) = 0x62BF#16 ∧ encode (.lea 0 1#9) = 0xE001#16 ∧
    encode (.st 0 0#9) = 0x3000#16 ∧ encode (.sti 1 2#9) = 0xB202#16 ∧ encode (.str 1 2 3#6) = 0x7283#16 ∧
    encode (.rti 0#12) = 0x8000#16 ∧ encode (.res 0#12) = 0xD000#16 ∧ encode (.trap 0x25#8) = 0xF025#16 := by
  decide

/-- No word is admitted by two rows of the table (spec/opcode_table.json). -/
theorem test_rows_disjoint :
    opcodeRows.Pairwise (fun r q => r.pattern &&& q.mask ≠ q.pattern &&& r.mask) := by decide

/-- S1 and V1. -/
theorem test_sign_extension :
    sext5 0x1F#5 = 0xFFFF#16 ∧ sext5 0x0F#5 = 0x000F#16 ∧ sext6 0x20#6 = 0xFFE0#16 ∧ sext6 0x1F#6 = 0x001F#16 ∧
    sext9 0x1FD#9 = 0xFFFD#16 ∧ sext9 0x0FF#9 = 0x00FF#16 ∧ sext11 0x400#11 = 0xFC00#16 ∧
    sext11 0x3FF#11 = 0x03FF#16 := by decide

/-- The two definitions the host calls evaluate, and the word placed is the next to run (V3, 0x127F). -/
theorem test_withFetchWord_runs :
    decodeTableWord 16 0x127F = some (.addImm 1 1 0x1F#5) ∧
    (after (State.reset.withFetchWord 16 0x127F)).reg 1 = 0xFFFF#16 ∧
    (after (State.reset.withFetchWord 16 0xF025)).status = some .halted := by decide

/-! ### One step of each instruction -/

/-- V3. -/
theorem test_add_register_wraps :
    let t := after (start 0x1443#16 (fun s => (s.setReg 1 0xFFFF#16).setReg 3 0x0001#16))
    t.reg 2 = 0x0000#16 ∧ t.cc = .z ∧ t.pc = 0x3001#16 := by decide

/-- V3: a source is the destination. -/
theorem test_add_register_in_place :
    let t := after (start 0x1241#16 (fun s => s.setReg 1 0x4001#16))
    t.reg 1 = 0x8002#16 ∧ t.cc = .n := by decide

/-- V3. -/
theorem test_add_immediate_negative :
    let t := after (start 0x1270#16 (fun s => s.setReg 1 0x0010#16))
    t.reg 1 = 0x0000#16 ∧ t.cc = .z := by decide

/-- S2. -/
theorem test_add_immediate_zero :
    let t := after (start 0x1020#16)
    t.reg 0 = 0x0000#16 ∧ t.cc = .z ∧ t.pc = 0x3001#16 := by decide

/-- V3. -/
theorem test_and_register :
    let t := after (start 0x5443#16 (fun s => (s.setReg 1 0xF0F0#16).setReg 3 0x0FF0#16))
    t.reg 2 = 0x00F0#16 ∧ t.cc = .p := by decide

/-- V3. -/
theorem test_and_immediate_extends :
    let t := after (start 0x5270#16 (fun s => s.setReg 1 0xABCD#16))
    t.reg 1 = 0xABC0#16 ∧ t.cc = .n := by decide

/-- V3. -/
theorem test_not :
    let t := after (start 0x92BF#16 (fun s => s.setReg 2 0x00FF#16))
    t.reg 1 = 0xFF00#16 ∧ t.cc = .n := by decide

/-- V4. -/
theorem test_br_taken :
    (after (start 0x0402#16)).pc = 0x3003#16 ∧ (after (start 0x0802#16 (fun s => s.setCc .n))).pc = 0x3003#16 ∧
    (after (start 0x0202#16 (fun s => s.setCc .p))).pc = 0x3003#16 ∧
    (after (start 0x0F00#16)).pc = 0x2F01#16 := by decide

/-- V4. -/
theorem test_br_not_taken :
    (after (start 0x0402#16 (fun s => s.setCc .n))).pc = 0x3001#16 ∧
    (after (start 0x0A02#16)).pc = 0x3001#16 ∧ (after (start 0x0002#16)).pc = 0x3001#16 := by decide

/-- V4: at address 0xFFFF. -/
theorem test_pc_wraps :
    (after ((State.reset.setCell 0xFFFF#16 0x0E01#16).setPc 0xFFFF#16)).pc = 0x0001#16 := by decide

/-- V5. -/
theorem test_jmp :
    let t := after (start 0xC1C0#16 (fun s => s.setReg 7 0x3456#16))
    t.pc = 0x3456#16 ∧ t.reg 7 = 0x3456#16 := by decide

/-- V5. -/
theorem test_jsr :
    let t := after (start 0x4C00#16 (fun s => s.setReg 7 0x1111#16))
    t.reg 7 = 0x3001#16 ∧ t.pc = 0x2C01#16 ∧ t.cc = .z := by decide

/-- V5. -/
theorem test_jsrr :
    let t := after (start 0x40C0#16 (fun s => s.setReg 3 0x4000#16))
    t.reg 7 = 0x3001#16 ∧ t.pc = 0x4000#16 := by decide

/-- V5: the base register is R7. -/
theorem test_jsrr_r7 :
    let t := after (start 0x41C0#16 (fun s => s.setReg 7 0x5000#16))
    t.reg 7 = 0x3001#16 ∧ t.pc = 0x3001#16 := by decide

/-- V6. -/
theorem test_ld :
    let t := after (start 0x2202#16 (fun s => s.setCell 0x3003#16 0x8001#16))
    t.reg 1 = 0x8001#16 ∧ t.cc = .n ∧ t.pc = 0x3001#16 := by decide

/-- V6. -/
theorem test_ldi :
    let t := after (start 0xA202#16 (fun s => (s.setCell 0x3003#16 0x4000#16).setCell 0x4000#16 0x0007#16))
    t.reg 1 = 0x0007#16 ∧ t.cc = .p := by decide

/-- P6: the pointer names KBSR, and a key is waiting. -/
theorem test_ldi_polls :
    let t := after (start 0xA003#16 (fun s => (s.setCell 0x3004#16 0xFE00#16).setKeys [some 0x61#8]))
    t.reg 0 = 0x8000#16 ∧ t.cc = .n ∧ t.cell 0xFE02#16 = 0x0061#16 ∧ t.keys = [] := by decide

/-- V6: base and destination are one register, and the address wraps. -/
theorem test_ldr :
    let t := after (start 0x649F#16 (fun s => (s.setReg 2 0xFFF0#16).setCell 0x000F#16 0x9000#16))
    t.reg 2 = 0x9000#16 ∧ t.cc = .n := by decide

/-- V6. -/
theorem test_lea :
    let t := after (start 0xE1FF#16)
    t.reg 0 = 0x3000#16 ∧ t.cc = .p := by decide

/-- V7. -/
theorem test_st :
    let t := after (start 0x3202#16 (fun s => s.setReg 1 0xABCD#16))
    t.cell 0x3003#16 = 0xABCD#16 ∧ t.cc = .z ∧ t.pc = 0x3001#16 := by decide

/-- V7. -/
theorem test_sti :
    let t := after (start 0xB202#16 (fun s => (s.setReg 1 0x00AB#16).setCell 0x3003#16 0x4000#16))
    t.cell 0x4000#16 = 0x00AB#16 ∧ t.cell 0x3003#16 = 0x4000#16 := by decide

/-- V7. -/
theorem test_str :
    let t := after (start 0x72BF#16 (fun s => s.setReg 1 0x5555#16))
    t.cell 0xFFFF#16 = 0x5555#16 := by decide

/-- V8. -/
theorem test_res :
    let t := after (start 0xD000#16)
    let u := after (start 0xD000#16 (fun s => strictly (s.setRunning true)))
    t.pc = 0x3001#16 ∧ t.status = some .continued ∧ u.diag = some (.reservedOpcode 0xD000#16) ∧
    u.running = false ∧ u.status = some .halted := by decide

/-- V8. -/
theorem test_rti :
    let u := after (start 0x8000#16 (fun s => strictly (s.setRunning true)))
    (after (start 0x8000#16)).diag = none ∧ u.diag = some (.reservedOpcode 0x8000#16) ∧ u.running = false ∧
    u.pc = 0x3001#16 := by decide

/-- V8. -/
theorem test_trap_unbound :
    let t := after (start 0xF0FF#16 (fun s => s.setReg 7 0x1111#16))
    let u := after (start 0xF0FF#16 (fun s => strictly (s.setRunning true)))
    t.reg 7 = 0x3001#16 ∧ t.pc = 0x3001#16 ∧ t.status = some .continued ∧ t.diag = none ∧
    u.diag = some (.unboundTrapVector 0xFF#8) ∧ u.running = false ∧ u.reg 7 = 0x3001#16 := by decide

/-! ### The architected routines (V9) -/

theorem test_getc :
    let t := after (start 0xF020#16 (fun s => (s.setCc .n).setKeys [none, some 0xFF#8]))
    t.reg 0 = 0x00FF#16 ∧ t.cc = .p ∧ t.reg 7 = 0x3001#16 ∧ t.pc = 0x3001#16 ∧ t.output = [] := by decide

theorem test_out :
    let t := after (start 0xF021#16 (fun s => s.setReg 0 0x1241#16))
    t.output = [0x41#8] ∧ t.reg 0 = 0x1241#16 ∧ t.reg 7 = 0x3001#16 := by decide

/-- S6, and the words 0x4148, 0x4100 of V9. -/
theorem test_puts :
    let t := after (start 0xF022#16 (fun s =>
      ((s.setReg 0 0x4000#16).setCell 0x4000#16 0x0048#16).setCell 0x4001#16 0x0069#16))
    let u := after (start 0xF022#16 (fun s =>
      ((s.setReg 0 0x4000#16).setCell 0x4000#16 0x4148#16).setCell 0x4001#16 0x4100#16))
    t.output = [0x48#8, 0x69#8] ∧ t.reg 0 = 0x4000#16 ∧ t.pc = 0x3001#16 ∧ u.output = [0x48#8, 0x00#8] := by
  decide

theorem test_in :
    let t := after (start 0xF023#16 (fun s => s.setKeys [some 0x78#8]))
    let u := after (start 0xF023#16 (fun s =>
      { s.setKeys [some 0x78#8] with cfg := { s.cfg with inSetsFlags := false } }))
    t.reg 0 = 0x0078#16 ∧ t.cc = .p ∧ t.output = [0x78#8] ∧ u.reg 0 = 0x0078#16 ∧ u.cc = .z := by decide

theorem test_putsp :
    let t := after (start 0xF024#16 (fun s =>
      ((s.setReg 0 0x4000#16).setCell 0x4000#16 0x6548#16).setCell 0x4001#16 0x006C#16))
    let u := after (start 0xF024#16 (fun s => (s.setReg 0 0x4000#16).setCell 0x4000#16 0x4100#16))
    t.output = [0x48#8, 0x65#8, 0x6C#8] ∧ t.reg 0 = 0x4000#16 ∧ u.output = [] := by decide

theorem test_halt :
    let t := after (start 0xF025#16 (fun s => s.setRunning true))
    t.running = false ∧ t.status = some .halted ∧ t.reg 7 = 0x3001#16 ∧ t.pc = 0x3001#16 := by decide

/-! ### Keyboard registers, host commands -/

/-- V10: the rows with no key, and with key 0x61. -/
theorem test_status_read :
    (memRead State.reset 0xFE00#16).1 = 0x0000#16 ∧
    (memRead (State.reset.setKeys [some 0x61#8]) 0xFE00#16).1 = 0x8000#16 ∧
    (memRead (State.reset.setKeys [some 0x61#8]) 0xFE00#16).2.cell 0xFE02#16 = 0x0061#16 ∧
    (memRead (memWrite State.reset 0xFE00#16 0x1234#16) 0xFE00#16).1 = 0x0000#16 ∧
    (memRead (memWrite State.reset 0xFE02#16 0x1234#16) 0xFE02#16).1 = 0x1234#16 := by decide

/-- S7 and V11. -/
theorem test_load :
    load [0x30#8, 0x00#8, 0x12#8, 0x34#8, 0x56#8] State.reset = .ok (State.reset.setCell 0x3000#16 0x1234#16) ∧
    load [0xFF#8, 0xFF#8, 0xAA#8, 0xBB#8] State.reset = .ok (State.reset.setCell 0xFFFF#16 0xAABB#16) ∧
    load [0xFF#8, 0xFF#8, 0xAA#8, 0xBB#8, 0xCC#8, 0xDD#8] State.reset = .imageOverflow ∧
    load [0x30#8] State.reset = .imageTooShort := by decide

/-- S3: the HALT image, loaded and run. -/
theorem test_run_halt_image :
    (match load [0x30#8, 0x00#8, 0xF0#8, 0x25#8] State.reset with
      | .ok s => (match run 2 s with
        | .halted t => decide (t.pc = 0x3001#16 ∧ t.reg 7 = 0x3001#16 ∧ t.running = false)
        | .cancelled _ => false
        | .notOver _ => false)
      | .imageTooShort => false
      | .imageOverflow => false) = true := by decide

/-- V12. -/
theorem test_reset_step :
    let t := after State.reset
    t.pc = 0x3001#16 ∧ t.cc = .z ∧ t.mem = [] ∧ t.status = some .continued ∧ t.running = false := by decide

/-! ### For every statement with hypotheses, a state and operands that meet them -/

/-- IgnoredBitsDoNotMatter: two words of V2 that differ in ignored bits only. -/
theorem witness_IgnoredBitsDoNotMatter :
    (0x1443#16 : Word) ≠ 0x145B#16 ∧
    0x1443#16 &&& ~~~(decode 0x1443#16).ignored = 0x145B#16 &&& ~~~(decode 0x1443#16).ignored := by decide

/-- SpelledInstructionsFitOrAreRefused: both ends of the range of 9 bits and the range of 1 bit, a spelling at
the ends of its ranges that assembles, and an instruction that is neither RES nor RTI. -/
theorem witness_SpelledInstructionsFitOrAreRefused :
    Spelled.fits 9 (-256) = true ∧ Spelled.fits 9 255 = true ∧ Spelled.fits 1 (-1) = true ∧
    (Spelled.addImm 7 0 (-16)).assemble = some (.addImm 7 0 0x10#5) ∧
    (Spelled.br true false true 255).assemble = some (.br 0b101#3 0x0FF#9) ∧
    (Spelled.trap 255).assemble = some (.trap 0xFF#8) ∧
    (∀ low, Instr.jsr 0x400#11 ≠ .res low) ∧ (∀ low, Instr.jsr 0x400#11 ≠ .rti low) :=
  ⟨by decide, by decide, by decide, by decide, by decide, by decide, by simp, by simp⟩

/-- StepRunsTheDecodedInstruction: a word of the HALT image, and pc at KBSR. -/
theorem witness_StepRunsTheDecodedInstruction :
    (start 0xF025#16).trapPhase = .idle ∧ (start 0xF025#16).hook.head? ≠ some .cancel ∧
    decode (memRead (start 0xF025#16) (start 0xF025#16).pc).1 = .trap 0x25#8 ∧
    decode (memRead (State.reset.setKeys [some 0x61#8]) 0xFE00#16).1 = .rti 0#12 := by decide

/-- CancelledStepSkipsTheInstruction. -/
theorem witness_CancelledStepSkipsTheInstruction :
    (State.reset.setHook [.cancel]).trapPhase = .idle ∧
    (State.reset.setHook [.cancel]).hook.head? = some .cancel := by decide

/-- A state with the invariant: strict mode, a recorded fault, a memory cell. -/
theorem witness_StepKeepsTheInvariant :
    (after (start 0xD000#16 (fun s => strictly s))).Inv ∧
    ∃ t, step (after (start 0xD000#16 (fun s => strictly s))) = .next t :=
  ⟨⟨by decide, by decide, by decide, by decide, by
      intro w h
      have h' : (after (start 0xD000#16 (fun s => strictly s))).diag = some (.reservedOpcode 0xD000#16) := by
        decide
      rw [h'] at h
      obtain rfl : 0xD000#16 = w := by simpa using h
      decide⟩,
    ⟨_, rfl⟩⟩

/-- A step that answers a next state: StepKeepsParametersAndTrapTable, OutputIsAppendedAndNeverRead,
KeyboardAnswersAreUsedInOrder. -/
theorem witness_step_answers_next : ∃ t, step (start 0xF021#16) = .next t ∧ t.output = [0x00#8] :=
  ⟨_, rfl, by decide⟩

/-- RunningAndDiagnosticDiscipline: a step of which the premises of all four clauses hold somewhere. -/
theorem witness_RunningAndDiagnosticDiscipline :
    (after (start 0x1020#16 (fun s => s.setRunning true))).running = true ∧
    (start 0x1020#16).cfg.strict = false ∧
    (after (start 0xD000#16 (fun s => strictly s))).diag ≠ (start 0xD000#16 (fun s => strictly s)).diag ∧
    (after (start 0xF025#16)).status = some .halted := by decide

/-- No slot of the reset state holds a routine of the host. -/
theorem reset_no_host_trap (i : Instr) : ¬ IsHostTrap i State.reset := by
  have hall : ∀ v : Byte, State.reset.tt.lookup v ∈
      [none, some .getc, some .out, some .puts, some .input, some .putsp, some .halt] := by decide
  rintro ⟨v, id, -, h⟩
  have hv := hall v
  rw [h] at hv
  simp at hv

/-- OnlyBranchReadsTheFlags, RegistersNotNamedAreKept, OnlyStoresWriteMemory: an instruction that is not BR,
not a store, not a load and not a TRAP, run where no slot is the host's. -/
theorem witness_OnlyBranchReadsTheFlags :
    (∀ nzp off9, Instr.addReg 2 1 3 ≠ .br nzp off9) ∧ ¬ IsHostTrap (.addReg 2 1 3) State.reset ∧
    isStore (.addReg 2 1 3) = false ∧ (∀ dr off9, Instr.addReg 2 1 3 ≠ .ld dr off9) ∧
    (∀ dr off9, Instr.addReg 2 1 3 ≠ .ldi dr off9) ∧
    (∀ dr baseR off6, Instr.addReg 2 1 3 ≠ .ldr dr baseR off6) ∧ (∀ v, Instr.addReg 2 1 3 ≠ .trap v) ∧
    ∃ t, exec (.addReg 2 1 3) State.reset = .next t :=
  ⟨by simp, reset_no_host_trap _, rfl, by simp, by simp, by simp, by simp, _, rfl⟩

/-- The same statements at a TRAP to an architected slot. -/
theorem witness_RegistersNotNamedAreKept :
    ¬ IsHostTrap (.trap 0x21#8) State.reset ∧ isStore (.trap 0x21#8) = false ∧
    ∃ t, exec (.trap 0x21#8) State.reset = .next t :=
  ⟨reset_no_host_trap _, rfl, _, rfl⟩

/-- OnlyStoresWriteMemory, the forms that read: LD at the cell before KBSR, LDI through a pointer to KBDR, LDR at
an address that wraps, TRAP to HALT and to an unbound slot. -/
theorem witness_OnlyStoresWriteMemory :
    pcRelative (State.reset.setPc 0xFE00#16) 0x1FF#9 ≠ State.reset.cfg.kbsrAddr ∧
    pcRelative (start 0xFE02#16) 0#9 ≠ State.reset.cfg.kbsrAddr ∧
    (start 0xFE02#16).cell (pcRelative (start 0xFE02#16) 0#9) ≠ State.reset.cfg.kbsrAddr ∧
    basePlusOffset State.reset 0 0x3F#6 ≠ State.reset.cfg.kbsrAddr ∧
    State.reset.tt.lookup 0x25#8 ≠ some .puts ∧ State.reset.tt.lookup 0x25#8 ≠ some .putsp ∧
    State.reset.tt.lookup 0xFF#8 ≠ some .puts ∧ State.reset.tt.lookup 0xFF#8 ≠ some .putsp ∧
    isStore (.ld 1 0x1FF#9) = false ∧ ¬ IsHostTrap (.trap 0x25#8) State.reset :=
  ⟨by decide, by decide, by decide, by decide, by decide, by decide, by decide, by decide, rfl,
    reset_no_host_trap _⟩

/-- SetccChoosesExactlyOneFlag: an instruction that sets the flags, GETC and IN that complete. -/
theorem witness_SetccChoosesExactlyOneFlag :
    setsFlags (.notReg 1 2) = true ∧ (∃ t, exec (.notReg 1 2) State.reset = .next t) ∧
    (∃ t, exec (.trap 0x20#8) (State.reset.setKeys [some 0x00#8]) = .next t ∧ t.trapPhase = .idle) ∧
    (∃ t, exec (.trap 0x23#8) (State.reset.setKeys [none, some 0xFF#8]) = .next t ∧ t.trapPhase = .idle) ∧
    State.reset.tt.lookup 0x20#8 = some .getc ∧ State.reset.tt.lookup 0x23#8 = some .input ∧
    State.reset.cfg.inSetsFlags = true :=
  ⟨rfl, ⟨_, rfl⟩, ⟨_, rfl, by decide⟩, ⟨_, rfl, by decide⟩, by decide, by decide, rfl⟩

/-- FlagsAndPcNotNamedAreKept: a store for the first two clauses, TRAP to each kind of slot for the last. -/
theorem witness_FlagsAndPcNotNamedAreKept :
    setsFlags (.st 1 0#9) = false ∧ (∀ v, Instr.st 1 0#9 ≠ .trap v) ∧ writesPc (.st 1 0#9) = false ∧
    ¬ IsHostTrap (.st 1 0#9) State.reset ∧ (∃ t, exec (.st 1 0#9) State.reset = .next t) ∧
    State.reset.tt.lookup 0xFF#8 = none ∧ State.reset.tt.lookup 0x1F#8 = none ∧
    State.reset.tt.lookup 0x26#8 = none ∧ State.reset.tt.lookup 0x21#8 = some .out ∧
    State.reset.tt.lookup 0x22#8 = some .puts ∧ State.reset.tt.lookup 0x24#8 = some .putsp ∧
    State.reset.tt.lookup 0x25#8 = some .halt :=
  ⟨rfl, by simp, rfl, reset_no_host_trap _, ⟨_, rfl⟩, by decide, by decide, by decide, by decide, by decide,
    by decide, by decide⟩

/-- ReadAwayFromStatusIsPlain and StoredWordIsTheNextFetched: the neighbours of KBSR, and KBDR. -/
theorem witness_ReadAwayFromStatusIsPlain :
    0xFE01#16 ≠ State.reset.cfg.kbsrAddr ∧ 0xFDFF#16 ≠ State.reset.cfg.kbsrAddr ∧
    0xFE02#16 ≠ State.reset.cfg.kbsrAddr := by decide

/-- ReadOfStatusPollsTheKeyboard: a key, no key, and no answer to come. -/
theorem witness_ReadOfStatusPollsTheKeyboard :
    State.reset.cfg.kbsrAddr ≠ State.reset.cfg.kbdrAddr ∧
    (State.reset.setKeys [some 0xFF#8]).keys = some 0xFF#8 :: [] ∧
    (State.reset.setKeys [none, some 0x61#8]).keys = none :: [some 0x61#8] ∧ State.reset.keys = [] := by decide

/-- EqualCellsAreEqualMemories: the same two cells written in either order. -/
theorem witness_EqualCellsAreEqualMemories :
    let m := (Memory.write [] 0x0000#16 1#16).write 0xFFFF#16 2#16
    let m' := (Memory.write [] 0xFFFF#16 2#16).write 0x0000#16 1#16
    m.wf = true ∧ m'.wf = true ∧ m = m' ∧ ∀ a : Word, m.read a = m'.read a := by
  intro m m'
  have h : m = m' := by decide
  exact ⟨by decide, by decide, h, fun a => by rw [h]⟩

/-- SubroutineReturns: a call and a return from the state it left, both disjuncts. -/
theorem witness_SubroutineReturns :
    (∃ t, exec (.jsr 0x7FF#11) State.reset = .next t) ∧ (∃ t, exec (.jsrr 7) State.reset = .next t) ∧
    (ran (.jsr 2#11) State.reset).reg 7 = 0x3000#16 := ⟨⟨_, rfl⟩, ⟨_, rfl⟩, by decide⟩

/-- LoadPcRelative and StoreIndirect: an address beside KBSR. -/
theorem witness_LoadPcRelative :
    pcRelative (State.reset.setPc 0xFE00#16) 1#9 ≠ (State.reset.setPc 0xFE00#16).cfg.kbsrAddr := by decide

/-- LoadIndirect: the pointer names KBDR. -/
theorem witness_LoadIndirect :
    let s := State.reset.setCell 0x3000#16 0xFE02#16
    pcRelative s 0#9 ≠ s.cfg.kbsrAddr ∧ s.cell (pcRelative s 0#9) ≠ s.cfg.kbsrAddr := by decide

/-- LoadBasePlusOffset: an address that wraps. -/
theorem witness_LoadBasePlusOffset :
    basePlusOffset State.reset 0 0x3F#6 ≠ State.reset.cfg.kbsrAddr := by decide

/-- ReservedOpcodesFollowThePolicy: both modes. -/
theorem witness_ReservedOpcodesFollowThePolicy :
    State.reset.cfg.strict = false ∧ (strictly State.reset).cfg.strict = true := by decide

/-- UnboundTrapLinksAndFollowsThePolicy: both neighbours of the architected slots, both modes. -/
theorem witness_UnboundTrapLinksAndFollowsThePolicy :
    State.reset.tt.lookup 0x1F#8 = none ∧ State.reset.cfg.strict = false ∧
    (strictly State.reset).tt.lookup 0x26#8 = none ∧ (strictly State.reset).cfg.strict = true := by decide

/-- TrapReturnsThroughR7: a TRAP that begins, and one that waits in T3. -/
theorem witness_TrapReturnsThroughR7 :
    State.reset.trapPhase = .idle ∧ (∃ t, exec (.trap 0x20#8) State.reset = .next t) ∧
    (State.reset.setTrapPhase .getc).trapPhase ≠ .idle ∧
    (∃ t, step (State.reset.setTrapPhase .getc) = .next t) :=
  ⟨by decide, ⟨_, rfl⟩, by decide, ⟨_, rfl⟩⟩

/-- GetcReadsOneKey: a key at once, and one after two moments without. -/
theorem witness_GetcReadsOneKey :
    State.reset.trapPhase = .idle ∧ State.reset.tt.lookup 0x20#8 = some .getc ∧
    (State.reset.setKeys [some 0x61#8]).keys = List.replicate 0 none ++ some 0x61#8 :: [] ∧
    (State.reset.setKeys [none, none, some 0x61#8, none]).keys =
      List.replicate 2 none ++ some 0x61#8 :: [none] := by decide

/-- OutWritesTheLowByte and HaltClearsRunning. -/
theorem witness_OutWritesTheLowByte :
    State.reset.trapPhase = .idle ∧ State.reset.tt.lookup 0x21#8 = some .out ∧
    State.reset.tt.lookup 0x25#8 = some .halt := by decide

/-- A state with one word at 0x4000 and R0 at it: a string of one word. -/
def stringState (w : Word) : State := (State.reset.setReg 0 0x4000#16).setCell 0x4000#16 w

theorem stringState_reg (w : Word) : (stringState w).reg 0 = 0x4000#16 := rfl

theorem stringState_cell (w a : Word) : (stringState w).cell a = if a = 0x4000#16 then w else 0x0000#16 :=
  State.setCell_cell (State.reset.setReg 0 0x4000#16) 0x4000#16 a w

/-- The string premise of PutsWritesTheString and PutspWritesThePackedString: one word and its terminator. -/
theorem witness_StringAt (w : Word) : StringAt (stringState w) ((stringState w).reg 0) [w] 0x0000#16 := by
  rw [stringState_reg]
  refine ⟨by simp, ?_, ?_, ?_⟩
  · intro k h
    obtain rfl : k = 0 := by simpa using h
    rw [stringState_cell]
    simp [wordAt]
  · rw [stringState_cell]
    simp [wordAt]
  · intro k h
    show wordAt 0x4000#16 k ≠ 0xFE00#16
    obtain rfl | rfl : k = 0 ∨ k = 1 := by simp at h; omega
    all_goals decide

/-- The string premise with the empty string: the word at 0 is the terminator. -/
theorem witness_StringAt_empty : StringAt State.reset (State.reset.reg 0) [] 0x0000#16 := by
  refine ⟨by decide, fun k h => absurd h (by simp), by decide, ?_⟩
  intro k h
  obtain rfl : k = 0 := by simpa using h
  decide

/-- PutsWritesTheString: the string "H" of witness_StringAt (the empty one is witness_StringAt_empty). -/
theorem witness_PutsWritesTheString :
    (stringState 0x0048#16).trapPhase = .idle ∧ (stringState 0x0048#16).tt.lookup 0x22#8 = some .puts ∧
    (∀ w ∈ [0x0048#16], w ≠ 0x0000#16) ∧
    StringAt (stringState 0x0048#16) ((stringState 0x0048#16).reg 0) [0x0048#16] 0x0000#16 := by
  refine ⟨by decide, by decide, by simp, ?_⟩
  exact witness_StringAt 0x0048#16

/-- PutspWritesThePackedString: "He" and then a zero word; a last word whose high byte ends the string. -/
theorem witness_PutspWritesThePackedString :
    (stringState 0x6548#16).trapPhase = .idle ∧ (stringState 0x6548#16).tt.lookup 0x24#8 = some .putsp ∧
    (∀ w ∈ [0x6548#16], w.toNat % 256 ≠ 0 ∧ w.toNat / 256 ≠ 0) ∧
    ((0x0000#16).toNat % 256 = 0 ∨ (0x0000#16).toNat / 256 = 0) ∧
    ((0x006C#16).toNat % 256 = 0 ∨ (0x006C#16).toNat / 256 = 0) ∧
    StringAt (stringState 0x6548#16) ((stringState 0x6548#16).reg 0) [0x6548#16] 0x0000#16 := by
  refine ⟨by decide, by decide, by simp, by decide, by decide, ?_⟩
  exact witness_StringAt 0x6548#16

/-- InReadsOneKeyWithEcho: both values of IN_SETS_FLAGS. -/
theorem witness_InReadsOneKeyWithEcho :
    State.reset.trapPhase = .idle ∧ State.reset.tt.lookup 0x23#8 = some .input ∧
    (State.reset.setKeys [none, some 0x78#8]).keys = List.replicate 1 none ++ some 0x78#8 :: [] ∧
    State.reset.cfg.inSetsFlags = true ∧
    ({ State.reset with cfg := { inSetsFlags := false } } : State).cfg.inSetsFlags = false := by decide

/-- PutspAlwaysFinishes. -/
theorem witness_PutspAlwaysFinishes :
    State.reset.cfg.kbsrAddr ≠ State.reset.cfg.kbdrAddr ∧ State.reset.trapPhase = .idle ∧
    State.reset.tt.lookup 0x24#8 = some .putsp := by decide

/-- GetcAndInWaitForAKey: both routines and both values of IN_SETS_FLAGS, with no answers and with answers none
of which is a key. -/
theorem witness_GetcAndInWaitForAKey :
    State.reset.trapPhase = .idle ∧ State.reset.tt.lookup 0x20#8 = some .getc ∧
    State.reset.tt.lookup 0x23#8 = some .input ∧ State.reset.cfg.inSetsFlags = true ∧
    ({ State.reset with cfg := { inSetsFlags := false } } : State).cfg.inSetsFlags = false ∧
    (∀ c, some c ∉ State.reset.keys) ∧ (∀ c, some c ∉ (State.reset.setKeys [none, none]).keys) :=
  ⟨by decide, by decide, by decide, by decide, by decide, by simp [State.reset], by simp⟩

/-- HostRoutineHasOnlyTheContractsEffects: vector 0x30 bound to the host's routine 5. -/
theorem witness_HostRoutineHasOnlyTheContractsEffects :
    (bindTrap 0x30#8 (.host 5) State.reset).trapPhase = .idle ∧
    (bindTrap 0x30#8 (.host 5) State.reset).tt.lookup 0x30#8 = some (.host 5) := by decide

/-- ResetLeavesTheListedValues: two extra vectors, an architected one among them, and one that is neither. -/
theorem witness_ResetLeavesTheListedValues :
    let s : State := { State.reset with cfg := { extraTraps := [(0x25#8, 1), (0xFF#8, 2)] } }
    (s.cfg.extraTraps.map Prod.fst).Nodup ∧ (0xFF#8, 2) ∈ s.cfg.extraTraps ∧
    0x24#8 ∉ s.cfg.extraTraps.map Prod.fst := by decide

/-- LoadWritesTheImageOrRefusesIt: an image that ends at 0xFFFF, one that would pass it, and one too short. -/
theorem witness_LoadWritesTheImageOrRefusesIt :
    (0xFF#8 ++ 0xFF#8).toNat + [0xAA#8, 0xBB#8].length / 2 ≤ 65536 ∧
    65536 < (0xFF#8 ++ 0xFF#8).toNat + [0xAA#8, 0xBB#8, 0xCC#8, 0xDD#8].length / 2 ∧
    [0x30#8].length < 2 := by decide

/-- RunStopsAfterHaltOrCancel: a stopped state, HALT as the first step, a step that goes on, a cancelled step, and
loops that return halted and cancelled. -/
theorem witness_RunStopsAfterHaltOrCancel :
    let t := after ((start 0xF025#16).setRunning true)
    let u := after ((State.reset.setHook [.cancel]).setRunning true)
    let w := after (State.reset.setRunning true)
    State.reset.trapPhase = .idle ∧ State.reset.running = false ∧
    ¬ ((State.reset.setRunning true).trapPhase = .idle ∧ (State.reset.setRunning true).running = false) ∧
    t.trapPhase = .idle ∧ t.running = false ∧ t.status ≠ some .cancelled ∧ w.status ≠ some .cancelled ∧
    u.status = some .cancelled ∧ runLoop 2 ((start 0xF025#16).setRunning true) = .halted t ∧
    runLoop 1 ((State.reset.setHook [.cancel]).setRunning true) = .cancelled u := by
  decide

end Sys2Proof.Tests
end

section
/-! The registers (10_state.md R20): read after write, and their values after reset. -/

namespace Sys2Proof.Machine

/-- Every register reads 0x0000 after reset (10_state.md R20, 70_reset_and_hazards.md R210). -/
@[simp] theorem State.reset_reg (i : RegId) : State.reset.reg i = 0x0000#16 := by
  simp only [State.reg_eq, State.reset, Vector.getElem_replicate]

/-- Settles O20: reading after a write is the register file's own rule, the same at all eight numbers, and
reset replicates 0x0000 over the file. -/
theorem registersHoldWhatWasLastWritten : Obligations.RegistersHoldWhatWasLastWritten :=
  ⟨State.setReg_reg, State.reset_reg⟩

end Sys2Proof.Machine
end

section
/-! Memory (20_memory.md R55): a write is a plain store at every address. -/

namespace Sys2Proof.Machine

/-- Settles O22: the store law has no condition on the address, since a write never goes through the I/O
decoder that polls the keyboard on a read. -/
theorem memWriteIsAPlainStore : Obligations.MemWriteIsAPlainStore := memWrite_stored

end Sys2Proof.Machine
end

section
/-! Sign extension (30_encoding.md R86): one rule for every field width, of which the model's four are cases. -/

namespace Sys2Proof.Machine

/-- The model extends a field through its signed reading, and that reading takes 2^N off exactly when the top
bit is set (30_encoding.md R86). The width N is `n + 1`, so that a top bit exists. -/
theorem signExtend_eq_ofInt_sub_two_pow {n : Nat} (f : BitVec (n + 1)) :
    f.signExtend 16 =
      BitVec.ofInt 16 (if f.getLsbD n then (f.toNat : Int) - 2 ^ (n + 1) else f.toNat) := by
  have htop : f.msb = f.getLsbD n := BitVec.msb_eq_getLsbD_last f
  rw [BitVec.signExtend, BitVec.toInt_eq_msb_cond, htop, Nat.cast_pow, Nat.cast_ofNat]

/-- Settles O5: each of the four extensions is the rule for every width at its own N, and the example is
computed. -/
theorem signExtensionSubtractsTwoToTheN : Obligations.SignExtensionSubtractsTwoToTheN :=
  ⟨signExtend_eq_ofInt_sub_two_pow, signExtend_eq_ofInt_sub_two_pow, signExtend_eq_ofInt_sub_two_pow,
    signExtend_eq_ofInt_sub_two_pow, by decide⟩

end Sys2Proof.Machine
end

section
/-! The decoder and the encoder (30_encoding.md R81 to R84, R90, R102). The form of a word is settled by the one
row that admits it, and its operands are then the fields of that form: `Instr.reread`. -/

namespace Sys2Proof

/-! ### Fields of a word -/

/-- A register number is the reading of its own field. -/
@[simp] theorem toFin_regBits (r : RegId) : (regBits r).toFin = r := rfl

/-- Words that agree under a mask agree on every field the mask covers. -/
theorem extractLsb'_eq_of_and_eq {w w' m : Word} (h : w &&& m = w' &&& m) (lo len : Nat)
    (hm : m.extractLsb' lo len = BitVec.allOnes len) : w.extractLsb' lo len = w'.extractLsb' lo len := by
  have hf := congrArg (BitVec.extractLsb' lo len) h
  simpa only [BitVec.extractLsb'_and, hm, BitVec.and_allOnes] using hf

/-- A bit under the mask of a row that admits the word is that of the row's pattern. -/
theorem Row.getLsbD_of_admits {r : Row} {w : Word} (h : r.admits w) {k : Nat}
    (hk : r.mask.getLsbD k = true) : w.getLsbD k = r.pattern.getLsbD k := by
  rw [← h, BitVec.getLsbD_and, hk, Bool.and_true]

/-- A field under the mask of a row that admits the word is that of the row's pattern. -/
theorem Row.extractLsb'_of_admits {r : Row} {w : Word} (h : r.admits w) (lo len : Nat)
    (hm : r.mask.extractLsb' lo len = BitVec.allOnes len) :
    w.extractLsb' lo len = r.pattern.extractLsb' lo len := by
  rw [← h, BitVec.extractLsb'_and, hm, BitVec.and_allOnes]

/-! ### The form of a word, and the operands it then has -/

/-- The instruction of the form of the first one with its operands read out of a word (30_encoding.md R83). -/
def Instr.reread : Instr → Word → Instr
  | .br .., w => .br (w.extractLsb' 9 3) (w.extractLsb' 0 9)
  | .addReg .., w => .addReg (regField w 9) (regField w 6) (regField w 0)
  | .addImm .., w => .addImm (regField w 9) (regField w 6) (w.extractLsb' 0 5)
  | .ld .., w => .ld (regField w 9) (w.extractLsb' 0 9)
  | .st .., w => .st (regField w 9) (w.extractLsb' 0 9)
  | .jsr .., w => .jsr (w.extractLsb' 0 11)
  | .jsrr .., w => .jsrr (regField w 6)
  | .andReg .., w => .andReg (regField w 9) (regField w 6) (regField w 0)
  | .andImm .., w => .andImm (regField w 9) (regField w 6) (w.extractLsb' 0 5)
  | .ldr .., w => .ldr (regField w 9) (regField w 6) (w.extractLsb' 0 6)
  | .str .., w => .str (regField w 9) (regField w 6) (w.extractLsb' 0 6)
  | .rti .., w => .rti (w.extractLsb' 0 12)
  | .notReg .., w => .notReg (regField w 9) (regField w 6)
  | .ldi .., w => .ldi (regField w 9) (w.extractLsb' 0 9)
  | .sti .., w => .sti (regField w 9) (w.extractLsb' 0 9)
  | .jmp .., w => .jmp (regField w 6)
  | .res .., w => .res (w.extractLsb' 0 12)
  | .lea .., w => .lea (regField w 9) (w.extractLsb' 0 9)
  | .trap .., w => .trap (w.extractLsb' 0 8)

@[simp] theorem Instr.row_reread (i : Instr) (w : Word) : (i.reread w).row = i.row := by cases i <;> rfl

/-- Every row fixes the opcode. -/
theorem row_mask_opcode : ∀ r ∈ opcodeRows, r.mask.extractLsb' 12 4 = BitVec.allOnes 4 := by decide

/-- The decoder reads a word in the form whose row admits it: the row fixes the opcode, and bit 5 or bit 11
where the opcode has two forms (30_encoding.md R81). -/
theorem decode_of_admits {i : Instr} {w : Word} (h : i.row.admits w) : decode w = i.reread w := by
  have hop := Row.extractLsb'_of_admits h 12 4 (row_mask_opcode _ (Laws.EncodesItsRow.row_mem i))
  cases i
  case addReg | addImm | andReg | andImm =>
    have h5 := Row.getLsbD_of_admits h (k := 5) (by simp [Instr.row])
    simp only [Instr.row] at hop h5
    simp only [decode, hop, h5, Instr.reread]
    rfl
  case jsr | jsrr =>
    have h11 := Row.getLsbD_of_admits h (k := 11) (by simp [Instr.row])
    simp only [Instr.row] at hop h11
    simp only [decode, hop, h11, Instr.reread]
    rfl
  all_goals simp [decode, hop, Instr.row, Opcode.ofBits, Instr.reread]

/-- Reading the operands out of the encoding gives them back. -/
theorem reread_encode (i : Instr) : i.reread (encode i) = i := by
  cases i <;>
    simp (disch := decide) only [Instr.reread, regField, encode, BitVec.extractLsb'_cast, Nat.reduceSub,
      BitVec.extractLsb'_append_eq_of_le, BitVec.extractLsb'_append_eq_of_add_le,
      BitVec.extractLsb'_eq_self, toFin_regBits]

/-- Settles O1: the encoding is admitted by the instruction's own row, so it is read in the instruction's own
form, and each operand is the field it was put in. -/
theorem decodeUndoesEncode : Obligations.DecodeUndoesEncode := fun i =>
  (decode_of_admits (Laws.EncodesItsRow.encode_admits i)).trans (reread_encode i)

/-! ### Every word has exactly one row -/

/-- Every row is the row of the word that is its pattern. -/
theorem decode_pattern_row : ∀ r ∈ opcodeRows, (decode r.pattern).row = r := by decide

/-- A row that admits a word is the row of its decoding. -/
theorem decode_row_of_admits {r : Row} {w : Word} (hr : r ∈ opcodeRows) (h : r.admits w) :
    (decode w).row = r := by
  have hi := decode_pattern_row r hr
  rw [decode_of_admits (i := decode r.pattern) (by rwa [hi]), Instr.row_reread, hi]

/-- The bits any row looks at: the opcode, bit 11 and bit 5. -/
theorem and_rowBits (w : Word) :
    w &&& 0xF820#16 =
      w.extractLsb' 12 4 ++ w.extractLsb' 11 1 ++ 0#5 ++ w.extractLsb' 5 1 ++ 0#5 := by
  refine BitVec.eq_of_getLsbD_eq fun k hk => ?_
  interval_cases k <;> simp only [BitVec.getLsbD_append, BitVec.getLsbD_and] <;> simp

/-- Some row admits any word, for each of the 64 values of the bits rows look at. -/
theorem exists_row_admits (w : Word) : ∃ r ∈ opcodeRows, r.admits w := by
  have hall : ∀ (op : BitVec 4) (b11 b5 : BitVec 1), ∃ r ∈ opcodeRows,
      r.admits ((op ++ b11 ++ 0#5 ++ b5 ++ 0#5).cast rfl) := by decide
  have hmask : ∀ r ∈ opcodeRows, 0xF820#16 &&& r.mask = r.mask := by decide
  obtain ⟨r, hr, h⟩ := hall (w.extractLsb' 12 4) (w.extractLsb' 11 1) (w.extractLsb' 5 1)
  refine ⟨r, hr, ?_⟩
  calc w &&& r.mask = w &&& 0xF820#16 &&& r.mask := by rw [BitVec.and_assoc, hmask r hr]
    _ = r.pattern := by rw [and_rowBits]; exact h

/-- Settles O2: some row admits the word, and any row that does is the row of the decoding. -/
theorem everyWordHasExactlyOneRow : Obligations.EveryWordHasExactlyOneRow := by
  intro w
  obtain ⟨r, hr, h⟩ := exists_row_admits w
  have hrow := decode_row_of_admits hr h
  exact ⟨hrow ▸ hr, hrow ▸ h, fun q hq hw => (decode_row_of_admits hq hw).symm⟩

/-! ### Ignored bits -/

/-- The row of an instruction looks at none of the bits the decoder ignores. -/
theorem Instr.row_mask_ignored (i : Instr) : ~~~i.ignored &&& i.row.mask = i.row.mask := by
  cases i <;> simp only [Instr.ignored, Instr.row] <;> decide

/-- No operand holds a bit the decoder ignores. -/
theorem Instr.reread_congr {i : Instr} {w w' : Word} (h : w &&& ~~~i.ignored = w' &&& ~~~i.ignored) :
    i.reread w = i.reread w' := by
  cases i <;> simp only [Instr.ignored] at h <;>
    simp (disch := decide) only [Instr.reread, regField, extractLsb'_eq_of_and_eq h]

/-- Settles O3: the second word is admitted by the first one's row, which looks at no ignored bit, and its
operands are the same. -/
theorem ignoredBitsDoNotMatter : Obligations.IgnoredBitsDoNotMatter := by
  intro w w' h
  obtain ⟨-, hw, -⟩ := everyWordHasExactlyOneRow w
  have hw' : (decode w).row.admits w' :=
    calc w' &&& (decode w).row.mask
        = w' &&& ~~~(decode w).ignored &&& (decode w).row.mask := by
          rw [BitVec.and_assoc, Instr.row_mask_ignored]
      _ = w &&& (decode w).row.mask := by rw [← h, BitVec.and_assoc, Instr.row_mask_ignored]
      _ = (decode w).row.pattern := hw
  calc decode w' = (decode w).reread w' := decode_of_admits hw'
    _ = (decode w).reread w := (Instr.reread_congr h).symm
    _ = decode w := (decode_of_admits hw).symm

/-- Settles O4: the decoder is run on each of the words. -/
theorem wordsOfTheSpecDecode : Obligations.WordsOfTheSpecDecode := by
  unfold Obligations.WordsOfTheSpecDecode
  decide

end Sys2Proof
end

section
/-! The spelling of instructions (30_encoding.md R100, R102): what fits is kept by its field, and what a field
holds fits. -/

namespace Sys2Proof.Spelled

/-! ### One operand -/

/-- A number in the signed range of a field is the signed reading of the field it is put in. -/
theorem fieldOf_toInt {N : Nat} {v : Int} (hN : 0 < N) (h : fits N v = true) : (fieldOf N v).toInt = v := by
  simp only [fits, Bool.and_eq_true, decide_eq_true_eq] at h
  exact BitVec.toInt_ofInt_eq_self hN h.1 h.2

/-- The signed reading of a field is in the range of the field. -/
@[simp] theorem fits_toInt {N : Nat} (f : BitVec N) : fits N f.toInt = true := by
  simp only [fits, Bool.and_eq_true, decide_eq_true_eq]
  exact ⟨f.le_toInt, f.toInt_lt⟩

/-- A field is the one its signed reading is put in. -/
@[simp] theorem fieldOf_toInt_self {N : Nat} (f : BitVec N) : fieldOf N f.toInt = f := BitVec.ofInt_toInt

/-- A register number is kept. -/
theorem regOf_val {r : Nat} (h : isReg r = true) : (regOf r).val = r :=
  Nat.mod_eq_of_lt (by simpa [isReg] using h)

@[simp] theorem isReg_val (r : RegId) : isReg r.val = true := by simp [isReg]

@[simp] theorem regOf_val_self (r : RegId) : regOf r.val = r := Fin.ext (Nat.mod_eq_of_lt r.isLt)

/-- The mask of BR is its three bits. -/
theorem mask_bits (n z p : Bool) :
    (BitVec.ofBool n ++ BitVec.ofBool z ++ BitVec.ofBool p).getLsbD 2 = n ∧
      (BitVec.ofBool n ++ BitVec.ofBool z ++ BitVec.ofBool p).getLsbD 1 = z ∧
      (BitVec.ofBool n ++ BitVec.ofBool z ++ BitVec.ofBool p).getLsbD 0 = p := by
  revert n z p; decide

theorem mask_of_bits (m : BitVec 3) :
    BitVec.ofBool (m.getLsbD 2) ++ BitVec.ofBool (m.getLsbD 1) ++ BitVec.ofBool (m.getLsbD 0) = m := by
  revert m; decide

/-! ### A whole instruction -/

/-- An instruction assembles exactly when it is well formed (30_encoding.md R102). -/
theorem assemble_isSome_iff (i : Spelled) : (∃ j, i.assemble = some j) ↔ i.wellFormed = true := by
  cases h : i.wellFormed <;> simp [assemble, h]

/-- What assembled was well formed. -/
theorem wellFormed_of_assemble {i : Spelled} {j : Instr} (h : i.assemble = some j) : i.wellFormed = true :=
  (assemble_isSome_iff i).mp ⟨j, h⟩

/-- The instruction a spelled one assembles to has that spelling. -/
theorem ofInstr_of_assemble {i : Spelled} {j : Instr} (h : i.assemble = some j) : ofInstr j = i := by
  have hw := wellFormed_of_assemble h
  simp only [assemble, hw, if_true, Option.some.injEq] at h
  subst h
  cases i
  case br n z p off =>
    obtain ⟨hn, hz, hp⟩ := mask_bits n z p
    simp only [wellFormed] at hw
    simp only [ofInstr, hn, hz, hp, fieldOf_toInt (by decide) hw]
  case trap vector =>
    simp only [wellFormed, decide_eq_true_eq] at hw
    simp only [ofInstr, BitVec.toNat_ofNat, Nat.mod_eq_of_lt hw]
  all_goals
    simp only [wellFormed, Bool.and_eq_true] at hw
    simp (disch := simp [hw]) only [ofInstr, regOf_val, fieldOf_toInt]

/-- The spelling of an instruction is well formed. -/
theorem wellFormed_ofInstr (j : Instr) : (ofInstr j).wellFormed = true := by
  cases j
  case trap trapvect8 => simpa [ofInstr, wellFormed] using trapvect8.isLt
  all_goals simp [ofInstr, wellFormed]

/-- The spelling of an instruction assembles to it, RES and RTI apart, whose low 12 bits have no spelling. -/
theorem assemble_ofInstr {j : Instr} (hres : ∀ low, j ≠ .res low) (hrti : ∀ low, j ≠ .rti low) :
    (ofInstr j).assemble = some j := by
  simp only [assemble, wellFormed_ofInstr, if_true]
  cases j
  case res low => exact absurd rfl (hres low)
  case rti low => exact absurd rfl (hrti low)
  case br nzp off9 => simp only [ofInstr, mask_of_bits, fieldOf_toInt_self]
  all_goals simp [ofInstr]

end Sys2Proof.Spelled

namespace Sys2Proof

/-- Settles O6: the spelling and the instruction are each other's reading, operand by operand. -/
theorem spelledInstructionsFitOrAreRefused : Obligations.SpelledInstructionsFitOrAreRefused :=
  ⟨Spelled.assemble_isSome_iff, fun _ _ => Spelled.ofInstr_of_assemble,
    fun j => ⟨Spelled.wellFormed_ofInstr j, Spelled.assemble_ofInstr⟩, rfl, rfl,
    fun _ _ => Spelled.fieldOf_toInt⟩

end Sys2Proof
end

section
/-! What an instruction and a step can do to the state (10_state.md R30 to R34, 60_exceptions.md R182), said once:
the invariant and the step-wide obligations are read off it. -/

namespace Sys2Proof.Machine

/-! ### The instructions that neither call a routine nor meet the fault policy -/

theorem SameControl.refl (s : State) : SameControl s s := ⟨rfl, rfl, rfl, rfl, rfl, rfl, rfl, rfl⟩

theorem SameControl.trans {s t u : State} (h1 : SameControl s t) (h2 : SameControl t u) : SameControl s u where
  cfg := h2.cfg.trans h1.cfg
  running := h2.running.trans h1.running
  diag := h2.diag.trans h1.diag
  tt := h2.tt.trans h1.tt
  trapPhase := h2.trapPhase.trans h1.trapPhase
  status := h2.status.trans h1.status
  hook := h2.hook.trans h1.hook
  hostCalls := h2.hostCalls.trans h1.hostCalls

/-- A read leaves the control state alone. -/
theorem SameControl.read (s : State) (a : Word) : SameControl s (readEffect s a) :=
  ⟨by simp, by simp, by simp, by simp, by simp, by simp, by simp, by simp⟩

/-- The control state and the output are kept, the keyboard loses at most a first part of its answers, and the
memory keeps its canonical form. -/
structure QuietStep (s t : State) : Prop where
  control : SameControl s t
  output : t.output = s.output
  keys : t.keys <:+ s.keys
  wf : s.mem.wf = true → t.mem.wf = true

theorem QuietStep.refl (s : State) : QuietStep s s := ⟨.refl s, rfl, List.suffix_refl _, id⟩

theorem QuietStep.trans {s t u : State} (h1 : QuietStep s t) (h2 : QuietStep t u) : QuietStep s u :=
  ⟨h1.control.trans h2.control, h2.output.trans h1.output, h2.keys.trans h1.keys, h2.wf ∘ h1.wf⟩

/-- Registers, pc and flags are no part of what a quiet step keeps. -/
theorem QuietStep.of_core {s t : State} (h : t = { s with regs := t.regs, pc := t.pc, cc := t.cc }) :
    QuietStep s t := by
  rw [h]
  exact ⟨⟨rfl, rfl, rfl, rfl, rfl, rfl, rfl, rfl⟩, rfl, List.suffix_refl _, id⟩

theorem QuietStep.read (s : State) (a : Word) : QuietStep s (readEffect s a) :=
  ⟨.read s a, by simp, readEffect_keys s a, readEffect_wf s a⟩

theorem QuietStep.load (dr : RegId) (a : Word) (s : State) : QuietStep s (loadFrom dr a s) :=
  (QuietStep.read s a).trans (.of_core rfl)

theorem QuietStep.store (s : State) (a v : Word) : QuietStep s (memWrite s a v) :=
  ⟨⟨rfl, rfl, rfl, rfl, rfl, rfl, rfl, rfl⟩, rfl, List.suffix_refl _, Memory.wf_write s.mem a v⟩

/-! ### Every instruction -/

/-- A fault that names a reserved opcode names a word of opcode 8 or 13 (60_exceptions.md R180). -/
def RecordsReserved (f : RuntimeFault) : Prop :=
  ∀ w, f = .reservedOpcode w → w.extractLsb' 12 4 = 0b1000#4 ∨ w.extractLsb' 12 4 = 0b1101#4

theorem recordsReserved_rti (low : BitVec 12) : RecordsReserved (.reservedOpcode (0b1000#4 ++ low)) := by
  rintro w ⟨⟩
  exact .inl (BitVec.extractLsb'_append_eq_left)

theorem recordsReserved_res (low : BitVec 12) : RecordsReserved (.reservedOpcode (0b1101#4 ++ low)) := by
  rintro w ⟨⟩
  exact .inr (BitVec.extractLsb'_append_eq_left)

theorem recordsReserved_unbound (v : Byte) : RecordsReserved (.unboundTrapVector v) := by
  rintro w ⟨⟩

/-- The saved return address is no part of what a routine is held to. -/
theorem RoutineStep.of_trapEntry {s t : State} (h : RoutineStep (trapEntry s) t) : RoutineStep s t :=
  ⟨h.cfg, h.tt, h.diag, h.hook, h.keys, h.output, h.running, h.wf, h.status, h.phase⟩

/-- A TRAP to an unbound slot meets the fault policy on a state that differs in R7 and pc only. -/
theorem trapReturn_raise (f : RuntimeFault) (s : State) : trapReturn (raise f s) = raise f (trapReturn s) := by
  rcases raise_cases f s with ⟨hs, h⟩ | ⟨hs, h⟩
  · rw [h, raise_lenient f (trapReturn s) hs]
  · rw [h, raise_strict f (trapReturn s) hs]; rfl

/-- Everything an instruction can do: a quiet change, a TRAP's routine, or the fault policy after a quiet
change. -/
theorem exec_cases {i : Instr} {s t : State} (h : exec i s = .next t) :
    QuietStep s t ∨ RoutineStep s t ∨ ∃ f u, RecordsReserved f ∧ QuietStep s u ∧ t = raise f u := by
  cases i <;> cases h
  case ld | ldr => exact .inl (.load _ _ _)
  case ldi dr off9 => exact .inl ((QuietStep.read s _).trans (.load _ _ _))
  case st | str => exact .inl (.store _ _ _)
  case sti sr off9 => exact .inl ((QuietStep.read s _).trans (.store _ _ _))
  case rti low => exact .inr (.inr ⟨_, s, recordsReserved_rti low, .refl s, rfl⟩)
  case res low => exact .inr (.inr ⟨_, s, recordsReserved_res low, .refl s, rfl⟩)
  case trap v =>
    rcases dispatchTrap_cases v (trapEntry s) with ⟨r, -, h⟩ | ⟨-, h⟩ <;> rw [h]
    · exact .inr (.inl (startRoutine_step r _).of_trapEntry)
    · exact .inr (.inr ⟨_, trapReturn (trapEntry s), recordsReserved_unbound v, .of_core rfl,
        trapReturn_raise _ _⟩)
  case br nzp off9 =>
    split
    · exact .inl (.of_core rfl)
    · exact .inl (.refl s)
  all_goals exact .inl (.of_core rfl)

/-- No instruction writes the hook's answers. -/
theorem exec_hook {i : Instr} {s t : State} (h : exec i s = .next t) : t.hook = s.hook := by
  rcases exec_cases h with hq | hr | ⟨f, u, -, hq, rfl⟩
  · exact hq.control.hook
  · exact hr.hook
  · rcases raise_cases f u with ⟨-, e⟩ | ⟨-, e⟩ <;> rw [e] <;> exact hq.control.hook

/-! ### Every step -/

/-- What a step can do to the control state, the devices and the canonical form of the memory. -/
structure CoreStep (s t : State) : Prop where
  cfg : t.cfg = s.cfg
  tt : t.tt = s.tt
  keys : t.keys <:+ s.keys
  running : t.running = true → s.running = true
  wf : s.mem.wf = true → t.mem.wf = true
  diag : t.diag = s.diag ∨
    s.cfg.strict = true ∧ t.running = false ∧ t.status = some .halted ∧
      ∃ f, t.diag = some f ∧ RecordsReserved f
  halted : t.status = some .halted → t.running = false
  inT3 : t.trapPhase ≠ .idle → t.status = none

/-- A quiet change of a state between Steps, or whose Step is under way. -/
theorem QuietStep.toCore {s t : State} (h : QuietStep s t) (hp : s.trapPhase = .idle)
    (hs : s.status = some .continued) : CoreStep s t where
  cfg := h.control.cfg
  tt := h.control.tt
  keys := h.keys
  running := fun hr => h.control.running ▸ hr
  wf := h.wf
  diag := .inl h.control.diag
  halted := fun ht => by simp [h.control.status, hs] at ht
  inT3 := fun ht => absurd (h.control.trapPhase.trans hp) ht

theorem RoutineStep.toCore {s t : State} (h : RoutineStep s t) (hs : s.status = some .continued) :
    CoreStep s t where
  cfg := h.cfg
  tt := h.tt
  keys := h.keys
  running := h.running
  wf := h.wf
  diag := .inl h.diag
  halted := fun ht => by
    rcases h.status with hn | hn | ⟨-, hr⟩
    · simp [hn] at ht
    · simp [hn, hs] at ht
    · exact hr
  inT3 := fun ht => by
    rcases h.phase with ⟨hi, -⟩ | ⟨-, hn, -⟩
    · exact absurd hi ht
    · exact hn

/-- The fault policy after a quiet change. -/
theorem CoreStep.raise {s u : State} {f : RuntimeFault} (h : CoreStep s u) (hf : RecordsReserved f)
    (hp : u.trapPhase = .idle) : CoreStep s (raise f u) := by
  rcases raise_cases f u with ⟨-, e⟩ | ⟨hs, e⟩ <;> rw [e]
  · exact h
  · exact ⟨h.cfg, h.tt, h.keys, fun hr => by simp at hr, h.wf,
      .inr ⟨h.cfg ▸ hs, rfl, rfl, f, rfl, hf⟩, fun _ => rfl, fun ht => absurd hp ht⟩

/-- An instruction, run while its Step is under way. -/
theorem exec_coreStep {i : Instr} {s t : State} (h : exec i s = .next t) (hp : s.trapPhase = .idle)
    (hs : s.status = some .continued) : CoreStep s t := by
  rcases exec_cases h with hq | hr | ⟨f, u, hf, hq, rfl⟩
  · exact hq.toCore hp hs
  · exact hr.toCore hs
  · exact (hq.toCore hp hs).raise hf (hq.control.trapPhase.trans hp)

/-- What precedes the instruction in a Step: the fetch, the hook and the status are no part of what a core step
is held to, but for the keyboard and the memory, which the fetch may poll. -/
theorem CoreStep.of_fetch {s t : State} (h : CoreStep (consultHook (fetch s).2) t) : CoreStep s t where
  cfg := h.cfg.trans (readEffect_cfg s s.pc)
  tt := h.tt.trans (readEffect_tt s s.pc)
  keys := h.keys.trans (readEffect_keys s s.pc)
  running := fun hr => (readEffect_running s s.pc) ▸ h.running hr
  wf := fun hw => h.wf (readEffect_wf s s.pc hw)
  diag := (readEffect_diag s s.pc) ▸ (readEffect_cfg s s.pc) ▸ h.diag
  halted := h.halted
  inT3 := h.inT3

/-- Every step is a core step. -/
theorem step_coreStep {s t : State} (h : step s = .next t) : CoreStep s t := by
  rcases step_cases s with ⟨hp, e⟩ | ⟨hp, -, e⟩ | ⟨hp, -, e⟩ <;> rw [e] at h
  · cases h
    have hc := (continueRoutine_step s.trapPhase hp (s.setStatus (some .continued))).toCore rfl
    exact ⟨hc.cfg, hc.tt, hc.keys, hc.running, hc.wf, hc.diag, hc.halted, hc.inT3⟩
  · cases h
    exact CoreStep.of_fetch ⟨rfl, rfl, List.suffix_refl _, id, id, .inl rfl, by simp,
      fun ht => absurd ((readEffect_trapPhase s s.pc).trans hp) ht⟩
  · exact (exec_coreStep h ((readEffect_trapPhase s s.pc).trans hp) rfl).of_fetch

/-- A step uses at most one answer of the hook. -/
theorem step_hook {s t : State} (h : step s = .next t) : t.hook = s.hook ∨ t.hook = s.hook.tail := by
  have hf : (consultHook (fetch s).2).hook = s.hook.tail := congrArg List.tail (readEffect_hook s s.pc)
  rcases step_cases s with ⟨hp, e⟩ | ⟨-, -, e⟩ | ⟨-, -, e⟩ <;> rw [e] at h
  · cases h
    exact .inl (continueRoutine_step s.trapPhase hp (s.setStatus (some .continued))).hook
  · cases h
    exact .inr hf
  · exact .inr ((exec_hook h).trans hf)

/-! ### The obligations about every step -/

/-- Settles O10: each clause of the invariant is a clause of what a step can do, and where the diagnostic changed
the mode is strict and the fault is a good one. -/
theorem stepKeepsTheInvariant : Obligations.StepKeepsTheInvariant := by
  intro s t hi h
  have hc := step_coreStep h
  refine ⟨hc.wf hi.mem, hc.tt ▸ hi.tt, hc.inT3, fun hl => ?_, fun w hw => ?_⟩
  · rw [hc.cfg] at hl
    rcases hc.diag with e | ⟨hs, -⟩
    · rw [e, hi.lenient hl]
    · simp [hl] at hs
  · rcases hc.diag with e | ⟨-, -, -, f, e, hf⟩
    · exact hi.reserved w (e ▸ hw)
    · exact hf w (Option.some.inj (e.symm.trans hw))

/-- Settles O11: every clause is about literal values of the reset state. -/
theorem resetHasTheInvariant : Obligations.ResetHasTheInvariant where
  mem := rfl
  tt := TrapTable.wf_architected
  inT3 := fun h => absurd rfl h
  lenient := fun _ => rfl
  reserved := by rintro w ⟨⟩

/-- Settles O12: what a step can do to parameters and table is nothing. -/
theorem stepKeepsParametersAndTrapTable : Obligations.StepKeepsParametersAndTrapTable := fun _ _ h =>
  ⟨(step_coreStep h).cfg, (step_coreStep h).tt⟩

/-- Settles O13: only the strict fault policy writes the diagnostic, and it halts. -/
theorem runningAndDiagnosticDiscipline : Obligations.RunningAndDiagnosticDiscipline := by
  intro s t h
  have hc := step_coreStep h
  refine ⟨hc.running, fun hl => ?_, fun hd => ?_, hc.halted⟩
  · rcases hc.diag with e | ⟨hs, -⟩
    · exact e
    · simp [hl] at hs
  · rcases hc.diag with e | ⟨-, hr, hs, f, e, -⟩
    · exact absurd e hd
    · exact ⟨by simp [e], hr, hs⟩

/-- Settles O15: the keyboard's clause is that of every core step, the hook's that of the hook. -/
theorem keyboardAnswersAreUsedInOrder : Obligations.KeyboardAnswersAreUsedInOrder := fun _ _ h =>
  ⟨(step_coreStep h).keys, step_hook h⟩

/-! ### Steps 1 to 3 of the instruction cycle (10_state.md R34) -/

/-- Every instruction answers a next state. -/
theorem exec_next (i : Instr) (s : State) : ∃ t, exec i s = .next t := by cases i <;> exact ⟨_, rfl⟩

/-- Settles O9: exec has no arm that stops, and a step is a resumed TRAP, a cancelled step or exec. -/
theorem nothingStopsTheMachine : Obligations.NothingStopsTheMachine := by
  refine ⟨exec_next, fun s => ?_⟩
  rcases step_cases s with ⟨-, e⟩ | ⟨-, -, e⟩ | ⟨-, -, e⟩
  · exact ⟨_, e⟩
  · exact ⟨_, e⟩
  · rw [e]; exact exec_next _ _

/-- A step of a core whose TRAP is in T3 goes on with the TRAP. -/
theorem step_in_T3 {s : State} (hp : s.trapPhase ≠ .idle) : step s = .next (resumeTrap s) := by
  rcases step_cases s with ⟨-, e⟩ | ⟨hi, -⟩ | ⟨hi, -⟩
  · exact e
  · exact absurd hi hp
  · exact absurd hi hp

/-- The hook cancels: the instruction is skipped. -/
theorem step_cancel {s : State} (hp : s.trapPhase = .idle) (ha : hookAnswer s = .cancel) :
    step s = .next ((consultHook (fetch s).2).setStatus (some .cancelled)) := by
  rcases step_cases s with ⟨hn, -⟩ | ⟨-, -, e⟩ | ⟨-, hg, -⟩
  · exact absurd hp hn
  · exact e
  · simp [ha] at hg

/-- The hook does not cancel: the instruction is run. -/
theorem step_goOn {s : State} (hp : s.trapPhase = .idle) (ha : hookAnswer s = .goOn) :
    step s = exec (decode (fetch s).1) (consultHook (fetch s).2) := by
  rcases step_cases s with ⟨hn, -⟩ | ⟨-, hc, -⟩ | ⟨-, -, e⟩
  · exact absurd hp hn
  · simp [ha] at hc
  · exact e

/-- Settles O7: the hook does not cancel, so the step is the decoded instruction. -/
theorem stepRunsTheDecodedInstruction : Obligations.StepRunsTheDecodedInstruction := by
  rintro s i hp hh rfl
  have ha : hookAnswer s = .goOn := by
    cases h : hookAnswer s
    · rfl
    · exact absurd ((hookAnswer_eq_cancel s).mp h) hh
  rw [step_goOn hp ha, consultHook, fetch_snd, State.setStatus_hook, State.setPc_hook, readEffect_hook]
  rfl

/-- Settles O8: the hook cancels, so the step is the fetch and the hook's answer. -/
theorem cancelledStepSkipsTheInstruction : Obligations.CancelledStepSkipsTheInstruction := by
  intro s hp hh
  exact ⟨_, step_cancel hp ((hookAnswer_eq_cancel s).mpr hh), rfl, rfl, by simp [consultHook],
    fun r _ => by simp [consultHook], by simp [consultHook], by simp [consultHook], by simp [consultHook],
    by simp [consultHook], by simp [consultHook], by simp [consultHook, hp], rfl, fun _ _ => rfl⟩

end Sys2Proof.Machine
end

section
/-! Reads and stores through the I/O decoder, and the sums of the addressing modes (20_memory.md R52 to R58,
42_load_store.md R137). -/

namespace Sys2Proof.Machine

/-! ### The I/O decoder -/

/-- Settles O23: a read away from KBSR is the plain read. -/
theorem readAwayFromStatusIsPlain : Obligations.ReadAwayFromStatusIsPlain := fun s _ h => memRead_of_ne s h

/-- A read of KBSR is a poll. -/
theorem readEffect_kbsr (s : State) : readEffect s s.cfg.kbsrAddr = pollKeyboard s := if_pos rfl

/-- A poll that finds a key (20_memory.md R52, R53). -/
theorem poll_key {s : State} (hne : s.cfg.kbsrAddr ≠ s.cfg.kbdrAddr) {c : Byte} {rest : List (Option Byte)}
    (hk : s.keys = some c :: rest) :
    (readEffect s s.cfg.kbsrAddr).cell s.cfg.kbsrAddr = 0x8000#16 ∧
      (readEffect s s.cfg.kbsrAddr).cell s.cfg.kbdrAddr = c.setWidth 16 ∧
      (readEffect s s.cfg.kbsrAddr).keys = rest := by
  rw [readEffect_kbsr, pollKeyboard_key s hk]
  refine ⟨?_, by simp [zext16], by simp⟩
  rw [State.setCell_cell_of_ne _ _ hne, State.setCell_cell_self]

/-- A poll that finds no key changes the status cell and takes at most the answer "no key". -/
theorem poll_no_key {s : State} (hk : ∀ c rest, s.keys ≠ some c :: rest) :
    readEffect s s.cfg.kbsrAddr = (s.setKeys s.keys.tail).setCell s.cfg.kbsrAddr 0x0000#16 := by
  rw [readEffect_kbsr]
  match h : s.keys with
  | [] => rw [pollKeyboard_empty s h, List.tail_nil, ← h, State.setKeys_same]
  | none :: rest => rw [pollKeyboard_no_key s h, List.tail_cons]
  | some c :: rest => exact absurd h (hk c rest)

/-- The three clauses about a poll that finds no key. -/
theorem poll_no_key_effect {s : State} (hk : ∀ c rest, s.keys ≠ some c :: rest) :
    (readEffect s s.cfg.kbsrAddr).cell s.cfg.kbsrAddr = 0x0000#16 ∧
      (readEffect s s.cfg.kbsrAddr).keys = s.keys.tail ∧
      CellsSameBut [s.cfg.kbsrAddr] s (readEffect s s.cfg.kbsrAddr) := by
  rw [poll_no_key hk]
  exact ⟨by simp, by simp, fun a ha => State.setCell_cell_of_ne (s.setKeys _) _ (by simpa using ha)⟩

/-- Settles O24: the three cases of the keyboard's next answer are the three cases of the poll, and a read
keeps the rest. -/
theorem readOfStatusPollsTheKeyboard : Obligations.ReadOfStatusPollsTheKeyboard := by
  intro s hne
  refine ⟨_, _, rfl, rfl, fun r _ => readEffect_reg s _ r, readEffect_cc s _, readEffect_pc s _, .read s _,
    readEffect_output s _, fun c rest hk => ?_, fun rest hk => ?_, fun hk => ?_⟩
  · obtain ⟨hv, hd, hr⟩ := poll_key hne hk
    refine ⟨hv, hd, hr, fun a ha => ?_⟩
    simp only [List.mem_cons, List.not_mem_nil, or_false, not_or] at ha
    exact readEffect_cell s _ ha.1 ha.2
  · obtain ⟨hv, hr, hc⟩ := poll_no_key_effect (s := s) (by simp [hk])
    exact ⟨hv, by simpa [hk] using hr, hc⟩
  · obtain ⟨hv, hr, hc⟩ := poll_no_key_effect (s := s) (by simp [hk])
    exact ⟨hv, by simpa [hk] using hr, hc⟩

/-- Settles O26: the fetch's read is plain, and a cell reads what was stored last. -/
theorem storedWordIsTheNextFetched : Obligations.StoredWordIsTheNextFetched := by
  intro s a v h
  rw [fetch_fst, readEffect_of_ne _ (by exact h)]
  exact s.setCell_cell_self a v

/-! ### Sums of the addressing modes -/

/-- A sum with a sign-extended field, as a number modulo 65536 (30_encoding.md R87). -/
theorem toNat_add_signExtend {n : Nat} (hn : n ≤ 16) (a : Word) (f : BitVec n) :
    ((a + f.signExtend 16).toNat : Int) = ((a.toNat : Int) + f.toInt) % 65536 := by
  rw [add_signExtend hn, BitVec.toNat_ofInt]
  exact Int.toNat_of_nonneg (Int.emod_nonneg _ (by decide))

/-- Settles O27: each address is a sum with a sign-extended field. -/
theorem addressesAreSignedSumsModulo65536 : Obligations.AddressesAreSignedSumsModulo65536 := fun _ _ _ _ _ =>
  ⟨toNat_add_signExtend (by decide) _ _, toNat_add_signExtend (by decide) _ _,
    toNat_add_signExtend (by decide) _ _, rfl⟩

end Sys2Proof.Machine
end

section
/-! The operate instructions and LEA (40_operate.md, 42_load_store.md R133): each writes a result, and the
obligation says which number or which bits the result is. -/

namespace Sys2Proof.Machine

/-- Settles O28: the sum of words is the sum of their numbers modulo 65536. -/
theorem addRegisterForm : Obligations.AddRegisterForm := by
  intro dr sr1 sr2 s
  have hv : BitVec.ofNat 16 (((s.reg sr1).toNat + (s.reg sr2).toNat) % 65536) = s.reg sr1 + s.reg sr2 := by
    rw [← BitVec.toNat_add, BitVec.ofNat_toNat, BitVec.setWidth_eq]
  exact ⟨_, rfl, hv ▸ writeResult_wrote dr _ s⟩

/-- Settles O29: a sum with a sign-extended field. -/
theorem addImmediateForm : Obligations.AddImmediateForm := fun dr sr1 imm5 s =>
  ⟨_, rfl, add_signExtend (by decide) (s.reg sr1) imm5 ▸ writeResult_wrote dr _ s⟩

/-- Settles O41: a sum with a sign-extended field, and no read. -/
theorem loadEffectiveAddress : Obligations.LoadEffectiveAddress := fun dr off9 s =>
  ⟨_, rfl, add_signExtend (by decide) s.pc off9 ▸ writeResult_wrote dr _ s⟩

/-- Settles O30: the bits of a conjunction. -/
theorem andRegisterForm : Obligations.AndRegisterForm := fun dr _ _ s =>
  ⟨_, _, rfl, fun _ _ => BitVec.getLsbD_and, writeResult_wrote dr _ s⟩

/-- A bit of a sign-extended immediate is its own, or that of bit 4 above it (30_encoding.md R86). -/
theorem getLsbD_sext5 (imm5 : BitVec 5) {k : Nat} (hk : k < 16) :
    (sext5 imm5).getLsbD k = imm5.getLsbD (min k 4) := by
  rw [sext5, BitVec.getLsbD_signExtend, decide_eq_true hk, Bool.true_and]
  split
  · next h => rw [min_eq_left (by omega)]
  · next h => rw [min_eq_right (by omega), BitVec.msb_eq_getLsbD_last]

/-- Settles O31: the bits of a conjunction with a sign-extended immediate. -/
theorem andImmediateForm : Obligations.AndImmediateForm := fun dr _ imm5 s =>
  ⟨_, _, rfl, fun _ hk => by rw [BitVec.getLsbD_and, getLsbD_sext5 imm5 hk], writeResult_wrote dr _ s⟩

/-- Settles O32: the complement of a word is 0xFFFF minus its number. -/
theorem notComplements : Obligations.NotComplements := by
  intro dr sr1 s
  have hv : BitVec.ofNat 16 (65535 - (s.reg sr1).toNat) = ~~~ s.reg sr1 := by
    apply BitVec.eq_of_toNat_eq
    rw [BitVec.toNat_not, BitVec.toNat_ofNat, Nat.mod_eq_of_lt (by omega)]
  exact ⟨_, rfl, hv ▸ writeResult_wrote dr _ s⟩

end Sys2Proof.Machine
end

section
/-! Control transfer (41_control.md). -/

namespace Sys2Proof.Machine

/-- Writing pc is a jump that writes no register. -/
theorem setPc_jumped (target : Word) (s : State) : Jumped target [] s (s.setPc target) :=
  ⟨rfl, fun _ _ => rfl, rfl, fun _ _ => rfl, (QuietStep.of_core rfl).control, ⟨rfl, rfl⟩⟩

/-- Writing R7 and pc is a jump that writes R7. -/
theorem setPc_setReg_jumped (target link : Word) (s : State) :
    Jumped target [7] s ((s.setReg 7 link).setPc target) :=
  ⟨rfl, fun _ hr => s.setReg_reg_of_ne link (by simpa using hr), rfl, fun _ _ => rfl,
    (QuietStep.of_core rfl).control, ⟨rfl, rfl⟩⟩

/-- The test of BR, flag by flag (41_control.md R120). -/
theorem branchTaken_iff (nzp : BitVec 3) (cc : Flag) : branchTaken nzp cc = true ↔
    (cc = .n ∧ nzp.getLsbD 2 = true) ∨ (cc = .z ∧ nzp.getLsbD 1 = true) ∨ (cc = .p ∧ nzp.getLsbD 0 = true) := by
  cases cc <;> revert nzp <;> decide

/-- Settles O33: the branch is taken exactly where the mask bit of the flag is 1. -/
theorem branchTakenOrNot : Obligations.BranchTakenOrNot := by
  intro nzp off9 s
  refine ⟨_, rfl, ?_⟩
  simp only [← branchTaken_iff]
  split
  · exact setPc_jumped _ s
  · exact setPc_jumped s.pc s

/-- Settles O34: JMP writes pc. -/
theorem jumpGoesToTheRegister : Obligations.JumpGoesToTheRegister := fun _ s => ⟨_, rfl, setPc_jumped _ s⟩

/-- Settles O35: the target is a sum with a sign-extended field, computed from the pc that is linked. -/
theorem jsrLinksAndJumps : Obligations.JsrLinksAndJumps := fun off11 s =>
  ⟨_, rfl, s.setReg_reg_self 7 s.pc, add_signExtend (by decide) s.pc off11 ▸ setPc_setReg_jumped _ _ s⟩

/-- Settles O36: the base register is read after R7 was written, so R7 as a base is the return address. -/
theorem jsrrLinksFirst : Obligations.JsrrLinksFirst := fun baseR s =>
  ⟨_, rfl, s.setReg_reg_self 7 s.pc, s.setReg_reg 7 baseR s.pc ▸ setPc_setReg_jumped _ _ s⟩

/-- Settles O37: both calls leave the return address in R7, and JMP R7 goes there. -/
theorem subroutineReturns : Obligations.SubroutineReturns := by
  rintro off11 baseR s t t' h h7
  have hlink : t.reg 7 = s.pc := by rcases h with h | h <;> cases h <;> exact s.setReg_reg_self 7 s.pc
  exact ⟨_, rfl, h7.trans hlink⟩

end Sys2Proof.Machine
end

section
/-! Loads and stores (42_load_store.md). -/

namespace Sys2Proof.Machine

/-- Away from KBSR a load takes the cell's content, and memory and devices are as they were. -/
theorem loadFrom_plain (dr : RegId) {a : Word} {s : State} (h : a ≠ s.cfg.kbsrAddr) :
    (loadFrom dr a s).reg dr = s.cell a ∧ CellsSameBut [] s (loadFrom dr a s) ∧
      SameDevices s (loadFrom dr a s) := by
  have hw := writeResult_wrote dr (s.cell a) s
  rw [loadFrom_of_ne dr s h]
  exact ⟨hw.dest, hw.cells, hw.devices⟩

/-- Settles O38: LD loads from the PC-relative address. -/
theorem loadPcRelative : Obligations.LoadPcRelative := fun dr _ s =>
  ⟨_, rfl, loadFrom_loadedFrom dr _ s, loadFrom_plain dr⟩

/-- Settles O40: LDR loads from the base-plus-offset address, computed on the state before. -/
theorem loadBasePlusOffset : Obligations.LoadBasePlusOffset := fun dr _ _ s =>
  ⟨_, rfl, loadFrom_loadedFrom dr _ s, loadFrom_plain dr⟩

/-- Settles O39: LDI loads from the pointer, on the state its read left, and that read keeps what a load keeps. -/
theorem loadIndirect : Obligations.LoadIndirect := by
  intro dr off9 s
  have hread := QuietStep.read s (pcRelative s off9)
  have hl := loadFrom_loadedFrom dr (memRead s (pcRelative s off9)).1 (memRead s (pcRelative s off9)).2
  refine ⟨_, rfl, hl, fun r hr => (hl.regs r hr).trans (readEffect_reg s _ r), hl.pc.trans (readEffect_pc s _),
    hread.control.trans hl.control, hl.output.trans hread.output, fun h1 h2 => ?_⟩
  rw [indirect, memRead_of_ne s h1]
  exact loadFrom_plain dr h2

/-- Settles O42: ST stores at the PC-relative address. -/
theorem storePcRelative : Obligations.StorePcRelative := fun _ _ s => ⟨_, rfl, memWrite_stored s _ _⟩

/-- Settles O44: STR stores at the base-plus-offset address. -/
theorem storeBasePlusOffset : Obligations.StoreBasePlusOffset := fun _ _ _ s => ⟨_, rfl, memWrite_stored s _ _⟩

/-- Settles O43: STI stores at the pointer, on the state its read left, and that read keeps what a store
keeps. -/
theorem storeIndirect : Obligations.StoreIndirect := by
  intro sr off9 s
  have hread := QuietStep.read s (pcRelative s off9)
  have hst := memWrite_stored (indirect s off9).2 (indirect s off9).1 (s.reg sr)
  refine ⟨_, rfl, hst, fun r hr => (hst.regs r hr).trans (readEffect_reg s _ r),
    hst.cc.trans (readEffect_cc s _), hst.pc.trans (readEffect_pc s _), hread.control.trans hst.control,
    hst.devices.output.trans hread.output, fun h => ?_⟩
  rw [indirect, memRead_of_ne s h]
  exact memWrite_stored s _ _

end Sys2Proof.Machine
end

section
/-! The reserved opcodes (43_reserved_and_trap.md R150, R151). -/

namespace Sys2Proof.Machine

/-- An opcode before its low 12 bits, as a number. -/
theorem opcode_append (op : BitVec 4) (low : BitVec 12) :
    op ++ low = BitVec.ofNat 16 (op.toNat * 4096 + low.toNat) := by
  apply BitVec.eq_of_toNat_eq
  have hor : op.toNat <<< 12 ||| low.toNat = op.toNat <<< 12 + low.toNat :=
    (Nat.shiftLeft_add_eq_or_of_lt low.isLt op.toNat).symm
  rw [BitVec.toNat_append, hor, Nat.shiftLeft_eq, BitVec.toNat_ofNat, Nat.mod_eq_of_lt]
  have := op.isLt; have := low.isLt
  omega

/-- Settles O45: both are the fault policy with the word of their opcode. -/
theorem reservedOpcodesFollowThePolicy : Obligations.ReservedOpcodesFollowThePolicy := by
  intro low s
  have hres : 0b1101#4 ++ low = BitVec.ofNat 16 (0xD000 + low.toNat) := opcode_append 0b1101#4 low
  have hrti : 0b1000#4 ++ low = BitVec.ofNat 16 (0x8000 + low.toNat) := opcode_append 0b1000#4 low
  refine ⟨fun hl => ⟨?_, ?_⟩, fun hs => ⟨?_, ?_⟩⟩
  · exact congrArg _ (raise_lenient _ s hl)
  · exact congrArg _ (raise_lenient _ s hl)
  · rw [← hres]; exact congrArg _ (raise_strict _ s hs)
  · rw [← hrti]; exact congrArg _ (raise_strict _ s hs)

end Sys2Proof.Machine
end

section
/-! TRAP: its entry, its return and the fault policy at an unbound slot (43_reserved_and_trap.md R152, R153). -/

namespace Sys2Proof.Machine

/-! ### Entry and return -/

@[simp] theorem trapEntry_reg_seven (s : State) : (trapEntry s).reg 7 = s.pc := s.setReg_reg_self 7 s.pc

theorem trapEntry_regs (s : State) : RegsSameBut [7] s (trapEntry s) := fun _ hr =>
  s.setReg_reg_of_ne s.pc (by simpa using hr)

/-- A TRAP to a bound slot runs the slot's routine after the entry. -/
theorem exec_trap_bound {v : Byte} {s : State} {r : Routine} (h : s.tt.lookup v = some r) :
    exec (.trap v) s = .next (startRoutine r (trapEntry s)) := by
  rcases dispatchTrap_cases v (trapEntry s) with ⟨r', hr, e⟩ | ⟨hn, -⟩
  · obtain rfl : r = r' := Option.some.inj (h.symm.trans hr)
    exact congrArg _ e
  · simp [trapEntry, h] at hn

/-- A TRAP to an unbound slot returns at once and meets the fault policy. -/
theorem exec_trap_unbound {v : Byte} {s : State} (h : s.tt.lookup v = none) :
    exec (.trap v) s = .next (raise (.unboundTrapVector v) (trapReturn (trapEntry s))) := by
  rcases dispatchTrap_cases v (trapEntry s) with ⟨r, hr, -⟩ | ⟨-, e⟩
  · simp [trapEntry, h] at hr
  · exact congrArg _ (e.trans (trapReturn_raise _ _))

/-- Entry and return alone are a jump to the return address. -/
theorem trapReturn_trapEntry_jumped (s : State) : Jumped s.pc [7] s (trapReturn (trapEntry s)) := by
  rw [trapReturn, trapEntry_reg_seven]
  exact setPc_setReg_jumped _ _ s

/-- A routine that finishes with R7 as the entry left it and the control state kept has returned. -/
theorem trapReturned_finish {s u : State} {written : List RegId} (hp : s.trapPhase = .idle)
    (hr : RegsSameBut written (trapEntry s) u) (h7 : (7 : RegId) ∉ written) (hc : SameControl (trapEntry s) u) :
    TrapReturned written s (finishTrap u) where
  r7 := (hr 7 h7).trans (trapEntry_reg_seven s)
  pc := (hr 7 h7).trans (trapEntry_reg_seven s)
  regs := fun r h => by
    obtain ⟨h7, hw⟩ := not_or.mp (List.mem_cons.not.mp h)
    exact (hr r hw).trans (trapEntry_regs s r (by simpa using h7))
  control := ⟨hc.cfg, hc.running, hc.diag, hc.tt, hp.symm, hc.status, hc.hook, hc.hostCalls⟩

/-- Settles O46: entry and return are a jump to the return address, and the policy is that of `raise`. -/
theorem unboundTrapLinksAndFollowsThePolicy : Obligations.UnboundTrapLinksAndFollowsThePolicy := by
  intro v s h
  have hj := trapReturn_trapEntry_jumped s
  have h7 : (trapReturn (trapEntry s)).reg 7 = s.pc := trapEntry_reg_seven s
  refine ⟨_, exec_trap_unbound h, ?_⟩
  cases hs : s.cfg.strict
  · rw [raise_lenient _ (trapReturn (trapEntry s)) hs]
    exact ⟨h7, hj.pc, hj.regs, hj.cc, hj.cells, hj.devices, hj.control.tt, hj.control.hook,
      hj.control.trapPhase, fun _ => ⟨hj.control.diag, hj.control.running, hj.control.status⟩, by simp⟩
  · rw [raise_strict _ (trapReturn (trapEntry s)) hs]
    exact ⟨h7, hj.pc, hj.regs, hj.cc, hj.cells, ⟨rfl, rfl⟩, hj.control.tt, hj.control.hook,
      hj.control.trapPhase, by simp, fun _ => ⟨rfl, rfl, rfl⟩⟩

/-- Settles O47: any routine finishes through R7 or stays with pc where it was, and an unbound slot returns at
once. -/
theorem trapReturnsThroughR7 : Obligations.TrapReturnsThroughR7 := by
  refine ⟨fun v s t hp h => ?_, fun s t hp h => ?_⟩
  · cases hl : s.tt.lookup v with
    | some r =>
      rw [exec_trap_bound hl] at h
      cases h
      exact (startRoutine_step r (trapEntry s)).phase
    | none =>
      rw [exec_trap_unbound hl] at h
      cases h
      left
      rcases raise_cases (.unboundTrapVector v) (trapReturn (trapEntry s)) with ⟨-, e⟩ | ⟨-, e⟩ <;> rw [e] <;>
        exact ⟨hp, rfl⟩
  · rw [step_in_T3 hp] at h
    cases h
    exact (continueRoutine_step s.trapPhase hp (s.setStatus (some .continued))).phase

end Sys2Proof.Machine
end

section
/-! GETC and IN (44_trap_routines.md R161, R164): they wait for a key or take one. -/

namespace Sys2Proof.Machine

/-- The key `c` was taken into R0, with `rest` the answers left and `echo` written; where `flags` is true the
flags are the key's, else they are kept. -/
structure TookKey (c : Byte) (rest : List (Option Byte)) (flags : Bool) (echo : List Byte) (s t : State) : Prop where
  r0 : t.reg 0 = c.setWidth 16
  regs : RegsSameBut [0] s t
  ccSet : flags = true → FlagOf (c.setWidth 16) t.cc
  ccKept : flags = false → t.cc = s.cc
  keys : t.keys = rest
  output : t.output = s.output ++ echo
  mem : t.mem = s.mem
  control : SameControl s t

/-- What GETC writes for the key it read. -/
theorem getcResult_tookKey (c : Byte) (rest : List (Option Byte)) (s : State) :
    TookKey c rest true [] s (writeResult 0 (zext16 c) (s.setKeys rest)) :=
  have hw := writeResult_wrote 0 (zext16 c) (s.setKeys rest)
  { r0 := hw.dest, regs := hw.regs, ccSet := fun _ => hw.cc, ccKept := by simp, keys := rfl,
    output := (List.append_nil _).symm, mem := rfl, control := ⟨rfl, rfl, rfl, rfl, rfl, rfl, rfl, rfl⟩ }

/-- What IN writes for the key it read. -/
theorem inputResult_tookKey (c : Byte) (rest : List (Option Byte)) (s : State) :
    TookKey c rest s.cfg.inSetsFlags [c] s (inputResult c (s.setKeys rest)) := by
  cases h : s.cfg.inSetsFlags
  · rw [inputResult, if_neg (by simp [h])]
    exact ⟨State.setReg_reg_self _ _ _, fun r hr => State.setReg_reg_of_ne _ _ (by simpa using hr), by simp,
      fun _ => rfl, rfl, rfl, rfl, ⟨rfl, rfl, rfl, rfl, rfl, rfl, rfl, rfl⟩⟩
  · rw [inputResult, if_pos (by simp [h])]
    have hw := writeResult_wrote 0 (zext16 c) ((s.setKeys rest).putChar c)
    exact ⟨hw.dest, hw.regs, fun _ => hw.cc, by simp, rfl, rfl, rfl, ⟨rfl, rfl, rfl, rfl, rfl, rfl, rfl, rfl⟩⟩

theorem runGetc_none {s : State} (h : readKey s.keys = none) : runGetc s = stayInT3 .getc s := by
  simp only [runGetc, h]

theorem runGetc_some {s : State} {c : Byte} {rest : List (Option Byte)} (h : readKey s.keys = some (c, rest)) :
    runGetc s = finishTrap (writeResult 0 (zext16 c) (s.setKeys rest)) := by
  simp only [runGetc, h]

theorem runInput_none {s : State} (h : readKey s.keys = none) : runInput s = stayInT3 .input s := by
  simp only [runInput, h]

theorem runInput_some {s : State} {c : Byte} {rest : List (Option Byte)} (h : readKey s.keys = some (c, rest)) :
    runInput s = finishTrap (inputResult c (s.setKeys rest)) := by
  simp only [runInput, h]

/-- GETC waits, or takes the next key. -/
theorem runGetc_cases (s : State) :
    (readKey s.keys = none ∧ runGetc s = stayInT3 .getc s) ∨
      ∃ c rest u, readKey s.keys = some (c, rest) ∧ runGetc s = finishTrap u ∧ TookKey c rest true [] s u := by
  cases h : readKey s.keys with
  | none => exact .inl ⟨rfl, runGetc_none h⟩
  | some p => exact .inr ⟨p.1, p.2, _, rfl, runGetc_some h, getcResult_tookKey p.1 p.2 s⟩

/-- IN waits, or takes the next key. -/
theorem runInput_cases (s : State) :
    (readKey s.keys = none ∧ runInput s = stayInT3 .input s) ∨
      ∃ c rest u, readKey s.keys = some (c, rest) ∧ runInput s = finishTrap u ∧
        TookKey c rest s.cfg.inSetsFlags [c] s u := by
  cases h : readKey s.keys with
  | none => exact .inl ⟨rfl, runInput_none h⟩
  | some p => exact .inr ⟨p.1, p.2, _, rfl, runInput_some h, inputResult_tookKey p.1 p.2 s⟩

/-- The first key after any number of moments without one. -/
theorem readKey_replicate (n : Nat) (c : Byte) (rest : List (Option Byte)) :
    readKey (List.replicate n none ++ some c :: rest) = some (c, rest) := by
  induction n with
  | zero => rfl
  | succ n ih => exact ih

/-- Where no key was to come, the one that arrives is the next, and no answer is left after it. -/
theorem readKey_append_key {k : List (Option Byte)} (h : ∀ c, some c ∉ k) (c : Byte) :
    readKey (k ++ [some c]) = some (c, []) := by
  induction k with
  | nil => rfl
  | cons e k ih =>
    cases e with
    | none => exact ih fun b hb => h b (List.mem_cons_of_mem _ hb)
    | some b => exact absurd List.mem_cons_self (h b)

/-- A routine that took a key in a TRAP has returned, and every cell is as it was. -/
theorem TookKey.returned {c : Byte} {rest : List (Option Byte)} {flags : Bool} {echo : List Byte} {s u : State}
    (h : TookKey c rest flags echo (trapEntry s) u) (hp : s.trapPhase = .idle) :
    TrapReturned [0] s (finishTrap u) ∧ CellsSameBut [] s (finishTrap u) :=
  ⟨trapReturned_finish hp h.regs (by decide) h.control, fun a _ => congrArg (Memory.read · a) h.mem⟩

/-- Settles O48: a key is to come, so GETC takes it. -/
theorem getcReadsOneKey : Obligations.GetcReadsOneKey := by
  intro v s n c rest hp hl hk
  have hread : readKey (trapEntry s).keys = some (c, rest) := hk ▸ readKey_replicate n c rest
  have h := getcResult_tookKey c rest (trapEntry s)
  obtain ⟨hret, hcells⟩ := h.returned hp
  exact ⟨_, (exec_trap_bound hl).trans (congrArg _ (runGetc_some hread)), hret, h.r0, h.ccSet rfl, h.keys,
    h.output.trans (List.append_nil _), hcells⟩

/-- Settles O51: a key is to come, so IN takes it, and the parameter decides about the flags. -/
theorem inReadsOneKeyWithEcho : Obligations.InReadsOneKeyWithEcho := by
  intro v s n c rest hp hl hk
  have hread : readKey (trapEntry s).keys = some (c, rest) := hk ▸ readKey_replicate n c rest
  have h := inputResult_tookKey c rest (trapEntry s)
  obtain ⟨hret, hcells⟩ := h.returned hp
  exact ⟨_, (exec_trap_bound hl).trans (congrArg _ (runInput_some hread)), hret, h.r0, h.ccSet, h.ccKept, h.keys,
    h.output, hcells⟩

/-- `p` is the phase in which the routine `r` waits for a key, to take it with the flags of GETC, or of IN by the
parameter, and with the echo of IN. -/
structure WaitsIn (r : Routine) (p : TrapPhase) : Prop where
  idle : p ≠ .idle
  start : ∀ s, startRoutine r s = continueRoutine p s
  wait : ∀ s : State, readKey s.keys = none → continueRoutine p s = stayInT3 p s
  take : ∀ (s : State) (c : Byte) (rest : List (Option Byte)), readKey s.keys = some (c, rest) →
    ∃ u, continueRoutine p s = finishTrap u ∧
      TookKey c rest (decide (r = .getc) || s.cfg.inSetsFlags) (if r = .input then [c] else []) s u

theorem waitsIn_getc : WaitsIn .getc .getc :=
  ⟨by simp, fun _ => rfl, fun _ => runGetc_none, fun s c rest h => ⟨_, runGetc_some h, getcResult_tookKey c rest s⟩⟩

theorem waitsIn_input : WaitsIn .input .input :=
  ⟨by simp, fun _ => rfl, fun _ => runInput_none,
    fun s c rest h => ⟨_, runInput_some h, inputResult_tookKey c rest s⟩⟩

/-- Settles O55: with no key both routines stay where they are, however often they are asked, and the key that
arrives is taken on the state as it waited. -/
theorem getcAndInWaitForAKey : Obligations.GetcAndInWaitForAKey := by
  intro v s r hp hr hl hk
  obtain ⟨p, hw⟩ : ∃ p, WaitsIn r p := by
    rcases hr with rfl | rfl
    · exact ⟨_, waitsIn_getc⟩
    · exact ⟨_, waitsIn_input⟩
  have hnone : readKey s.keys = none := readKey_none.mpr hk
  refine ⟨stayInT3 p (trapEntry s), ?_, hw.idle, rfl, trapEntry_reg_seven s, rfl, trapEntry_regs s, rfl,
    fun _ _ => rfl, ⟨rfl, rfl⟩, ⟨rfl, rfl, rfl, rfl, rfl, rfl⟩, ?_, fun c => ?_⟩
  · rw [exec_trap_bound hl, hw.start, hw.wait (trapEntry s) hnone]
  · rw [step_in_T3 hw.idle]
    exact congrArg _ (hw.wait ((stayInT3 p (trapEntry s)).setStatus (some .continued)) hnone)
  · obtain ⟨u, e, h⟩ := hw.take ((keyArrives c (stayInT3 p (trapEntry s))).setStatus (some .continued)) c []
      (readKey_append_key hk c)
    have h7 : u.reg 7 = s.pc := (h.regs 7 (by decide)).trans (trapEntry_reg_seven s)
    refine ⟨finishTrap u, (step_in_T3 hw.idle).trans (congrArg _ e), rfl, h.control.status, h.r0, h7, h7,
      fun x hx => ?_, fun hf => ?_, fun hi hf => ?_, fun a _ => congrArg (Memory.read · a) h.mem,
      ⟨h.control.cfg, h.control.running, h.control.diag, h.control.tt, h.control.hook, h.control.hostCalls⟩,
      h.keys, h.output.trans ?_⟩
    · simp only [List.mem_cons, List.not_mem_nil, or_false, not_or] at hx
      exact (h.regs x (by simpa using hx.1)).trans (trapEntry_regs s x (by simpa using hx.2))
    · exact h.ccSet (by simpa [keyArrives, stayInT3, trapEntry] using hf)
    · exact h.ccKept (by simpa [hi, keyArrives, stayInT3, trapEntry] using hf)
    · split
      · rfl
      · exact List.append_nil _

end Sys2Proof.Machine
end

section
/-! OUT, HALT and the routines of the host (44_trap_routines.md R162, R166, R167). -/

namespace Sys2Proof.Machine

/-- The low byte of a word, as a number. -/
theorem lowByte_eq (w : Word) : lowByte w = BitVec.ofNat 8 (w.toNat % 256) := by
  apply BitVec.eq_of_toNat_eq
  simp [lowByte, BitVec.extractLsb'_toNat]

/-- The high byte of a word, as a number. -/
theorem highByte_eq (w : Word) : highByte w = BitVec.ofNat 8 (w.toNat / 256) := by
  apply BitVec.eq_of_toNat_eq
  simp [highByte, BitVec.extractLsb'_toNat, Nat.shiftRight_eq_div_pow]

/-- Settles O49: R0 is as the entry found it, and its low byte is written. -/
theorem outWritesTheLowByte : Obligations.OutWritesTheLowByte := by
  intro v s hp hl
  refine ⟨_, exec_trap_bound hl, trapReturned_finish hp (fun _ _ => rfl) (by decide)
    ⟨rfl, rfl, rfl, rfl, rfl, rfl, rfl, rfl⟩, ?_, rfl, rfl, fun _ _ => rfl⟩
  have h0 : (trapEntry s).reg 0 = s.reg 0 := trapEntry_regs s 0 (by decide)
  show s.output ++ [lowByte ((trapEntry s).reg 0)] = _
  rw [h0, lowByte_eq]

/-- Settles O54: HALT is the halt action between entry and return. -/
theorem haltClearsRunning : Obligations.HaltClearsRunning := fun _ s _ hl =>
  ⟨_, exec_trap_bound hl, rfl, rfl, trapEntry_reg_seven s, trapEntry_reg_seven s, trapEntry_regs s, rfl,
    fun _ _ => rfl, ⟨rfl, rfl⟩, rfl, rfl, rfl, rfl, rfl⟩

/-- Settles O56: whatever the routine answers, it is applied once, and then the TRAP returns or stays. -/
theorem hostRoutineHasOnlyTheContractsEffects : Obligations.HostRoutineHasOnlyTheContractsEffects := by
  intro v id s hp hl e
  have hcases : (e.completes = true ∧
        runHost id (trapEntry s) = finishTrap (applyHostEffect e (trapEntry s).countHostCall)) ∨
      (e.completes = false ∧
        runHost id (trapEntry s) = stayInT3 (.host id) (applyHostEffect e (trapEntry s).countHostCall)) :=
    runHost_cases id (trapEntry s)
  clear_value e
  refine ⟨_, exec_trap_bound hl, ?_⟩
  rcases hcases with ⟨hc, h⟩ | ⟨hc, h⟩ <;> rw [startRoutine, h, hc]
  · exact ⟨rfl, rfl, rfl, rfl, rfl, rfl, rfl, rfl, rfl, rfl, rfl, rfl, rfl, rfl⟩
  · exact ⟨rfl, rfl, rfl, rfl, rfl, rfl, rfl, rfl, rfl, rfl, rfl, rfl, rfl, rfl⟩

end Sys2Proof.Machine
end

section
/-! PUTS and PUTSP over a string (44_trap_routines.md R163, R165). -/

namespace Sys2Proof.Machine

/-! ### Addresses along a string -/

@[simp] theorem wordAt_zero (a : Word) : wordAt a 0 = a := BitVec.add_zero a

theorem wordAt_succ (a : Word) (k : Nat) : wordAt (a + 1) k = wordAt a (k + 1) := by
  rw [wordAt, wordAt, BitVec.add_assoc, BitVec.ofNat_add, BitVec.add_comm 1]
  rfl

/-- The word at the head of a string is a plain read. -/
theorem StringAt.memRead_head {s : State} {a w last : Word} {ws : List Word} (h : StringAt s a (w :: ws) last) :
    memRead s a = (w, s) := by
  have hne : a ≠ s.cfg.kbsrAddr := by simpa using h.away 0 (Nat.zero_le _)
  have hw : s.cell a = w := (congrArg s.cell (wordAt_zero a)).symm.trans (h.words 0 (Nat.succ_pos _))
  rw [memRead_of_ne s hne, hw]

/-- The word that ends a string is a plain read. -/
theorem StringAt.memRead_last {s : State} {a last : Word} (h : StringAt s a [] last) :
    memRead s a = (last, s) := by
  have hne : a ≠ s.cfg.kbsrAddr := by simpa using h.away 0 (Nat.zero_le _)
  have hw : s.cell a = last := by simpa using h.last
  rw [memRead_of_ne s hne, hw]

/-- The rest of a string, whatever was written to the output. -/
theorem StringAt.tail {s : State} {a w last : Word} {ws : List Word} (h : StringAt s a (w :: ws) last)
    (cs : List Byte) : StringAt (s.putChars cs) (a + 1) ws last where
  short := Nat.lt_of_succ_lt h.short
  words := fun k hk => by rw [wordAt_succ]; exact h.words (k + 1) (Nat.succ_lt_succ hk)
  last := by rw [wordAt_succ]; exact h.last
  away := fun k hk => by rw [wordAt_succ]; exact h.away (k + 1) (Nat.succ_le_succ hk)

/-- A string is where it was when only R7 changed. -/
theorem StringAt.of_trapEntry {s : State} {last : Word} {ws : List Word} (h : StringAt s (s.reg 0) ws last) :
    StringAt (trapEntry s) ((trapEntry s).reg 0) ws last := by
  rw [trapEntry_regs s 0 (by decide)]
  exact ⟨h.short, h.words, h.last, h.away⟩

/-! ### The scans -/

/-- PUTS over a string writes the low bytes of its words and stops at the zero word. -/
theorem putsScan_string (ws : List Word) : ∀ (n : Nat) (a : Word) (s : State), ws.length < n →
    StringAt s a ws 0x0000#16 → (∀ w ∈ ws, w ≠ 0x0000#16) →
    putsScan n a s = (none, s.putChars (ws.map lowByte)) := by
  induction ws with
  | nil =>
    rintro (_ | n) a s hn h -
    · exact absurd hn (Nat.not_lt_zero _)
    · rw [putsScan, h.memRead_last, if_pos rfl, List.map_nil, State.putChars_nil]
  | cons w ws ih =>
    rintro (_ | n) a s hn h hnz
    · exact absurd hn (Nat.not_lt_zero _)
    · rw [putsScan, h.memRead_head, if_neg (hnz w List.mem_cons_self), State.putChar_eq,
        ih n (a + 1) _ (Nat.lt_of_succ_lt_succ hn) (h.tail _) fun x hx => hnz x (List.mem_cons_of_mem _ hx),
        State.putChars_putChars, List.map_cons, List.singleton_append]

/-- What PUTSP writes of the word that ends a string. -/
def lastBytes (w : Word) : List Byte := if lowByte w = 0x00#8 then [] else [lowByte w]

/-- PUTSP over a string writes both bytes of its words, and the low byte of the last if it is not zero. -/
theorem putspScan_string (last : Word) (hlast : lowByte last = 0x00#8 ∨ highByte last = 0x00#8) (ws : List Word) :
    ∀ (n : Nat) (a : Word) (s : State), ws.length < n → StringAt s a ws last →
    (∀ w ∈ ws, lowByte w ≠ 0x00#8 ∧ highByte w ≠ 0x00#8) →
    putspScan n a s =
      (none, s.putChars (ws.flatMap (fun w => [lowByte w, highByte w]) ++ lastBytes last)) := by
  induction ws with
  | nil =>
    rintro (_ | n) a s hn h -
    · exact absurd hn (Nat.not_lt_zero _)
    · rw [putspScan, h.memRead_last, lastBytes, List.flatMap_nil, List.nil_append]
      split
      · rw [State.putChars_nil]
      · next hl => rw [if_pos (hlast.resolve_left hl), State.putChar_eq]
  | cons w ws ih =>
    rintro (_ | n) a s hn h hnz
    · exact absurd hn (Nat.not_lt_zero _)
    · obtain ⟨hlo, hhi⟩ := hnz w List.mem_cons_self
      rw [putspScan, h.memRead_head, if_neg hlo, if_neg hhi, State.putChar_eq, State.putChar_eq,
        State.putChars_putChars, ih n (a + 1) _ (Nat.lt_of_succ_lt_succ hn) (h.tail _)
          fun x hx => hnz x (List.mem_cons_of_mem _ hx), State.putChars_putChars]
      rfl

/-- A scan that ends within the step finishes PUTS. -/
theorem runPuts_of_scan {a : Word} {s t : State} (h : putsScan scanLimit a s = (none, t)) :
    runPuts a s = finishTrap t := by
  simp only [runPuts, h]

/-- A scan that ends within the step finishes PUTSP. -/
theorem runPutsp_of_scan {a : Word} {s t : State} (h : putspScan scanLimit a s = (none, t)) :
    runPutsp a s = finishTrap t := by
  simp only [runPutsp, h]

/-- Written characters are no part of what a TRAP that returns keeps. -/
theorem trapReturned_putChars {s : State} (hp : s.trapPhase = .idle) (cs : List Byte) :
    TrapReturned [] s (finishTrap ((trapEntry s).putChars cs)) :=
  trapReturned_finish hp (fun _ _ => rfl) (by decide) ⟨rfl, rfl, rfl, rfl, rfl, rfl, rfl, rfl⟩

/-- Settles O50: the scan ends at the zero word, for the string is shorter than the bound. -/
theorem putsWritesTheString : Obligations.PutsWritesTheString := by
  intro v s ws hp hl hstr hnz
  have hscan := putsScan_string ws scanLimit _ (trapEntry s) hstr.short hstr.of_trapEntry hnz
  refine ⟨_, (exec_trap_bound hl).trans (congrArg _ (runPuts_of_scan hscan)), trapReturned_putChars hp _, ?_, rfl,
    rfl, fun _ _ => rfl⟩
  simp only [← lowByte_eq]
  rfl

/-- A byte of a word is zero exactly when its number is. -/
theorem lowByte_eq_zero_iff (w : Word) : lowByte w = 0x00#8 ↔ w.toNat % 256 = 0 := by
  rw [lowByte_eq, ← BitVec.toNat_inj]
  simp

theorem highByte_eq_zero_iff (w : Word) : highByte w = 0x00#8 ↔ w.toNat / 256 = 0 := by
  have hw := w.isLt
  rw [highByte_eq, ← BitVec.toNat_inj, BitVec.toNat_ofNat, Nat.mod_eq_of_lt (by omega)]
  rfl

/-- Settles O52: the scan ends at the first word with a zero byte, for the string is shorter than the bound. -/
theorem putspWritesThePackedString : Obligations.PutspWritesThePackedString := by
  intro v s ws last hp hl hstr hnz hlast
  simp only [← lowByte_eq_zero_iff, ← highByte_eq_zero_iff, ne_eq] at hnz hlast
  have hscan := putspScan_string last hlast ws scanLimit _ (trapEntry s) hstr.short hstr.of_trapEntry hnz
  refine ⟨_, (exec_trap_bound hl).trans (congrArg _ (runPutsp_of_scan hscan)), trapReturned_putChars hp _, ?_, rfl,
    rfl, fun _ _ => rfl⟩
  simp only [← lowByte_eq, ← highByte_eq, ← lowByte_eq_zero_iff]
  exact (List.append_assoc _ _ _).symm

/-! ### PUTSP always ends -/

/-- The word a read of KBSR answers has a zero low byte. -/
theorem lowByte_kbsr {s : State} (hne : s.cfg.kbsrAddr ≠ s.cfg.kbdrAddr) :
    lowByte (memRead s s.cfg.kbsrAddr).1 = 0x00#8 := by
  rw [memRead_fst]
  rcases readEffect_kbsr_cell s hne with h | h <;> rw [h] <;> decide

/-- A scan of PUTSP that would reach KBSR within its bound ends, there or before. -/
theorem putspScan_ends {k : Nat} : ∀ {n : Nat} {a : Word} {s : State}, s.cfg.kbsrAddr ≠ s.cfg.kbdrAddr → k < n →
    wordAt a k = s.cfg.kbsrAddr → (putspScan n a s).1 = none := by
  induction k with
  | zero =>
    rintro (_ | n) a s hne hn ha
    · exact absurd hn (Nat.not_lt_zero _)
    · rw [wordAt_zero] at ha
      subst ha
      rw [putspScan, if_pos (lowByte_kbsr hne)]
  | succ k ih =>
    rintro (_ | n) a s hne hn ha
    · exact absurd hn (Nat.not_lt_zero _)
    · rw [putspScan]
      split
      · rfl
      · split
        · rfl
        · have hcfg : ∀ c d, (((memRead s a).2.putChar c).putChar d).cfg = s.cfg := fun _ _ => readEffect_cfg s a
          exact ih (by rwa [hcfg]) (Nat.lt_of_succ_lt_succ hn) (by rw [hcfg, wordAt_succ, ha])

/-- Settles O53: the bound is the number of cells, so a scan would reach KBSR within it. -/
theorem putspAlwaysFinishes : Obligations.PutspAlwaysFinishes := by
  intro v s hne hp hl
  have hk : wordAt ((trapEntry s).reg 0) (s.cfg.kbsrAddr - (trapEntry s).reg 0).toNat = s.cfg.kbsrAddr := by
    rw [wordAt, BitVec.ofNat_toNat, BitVec.setWidth_eq, BitVec.add_comm, BitVec.sub_add_cancel]
  have hend : (putspScan scanLimit ((trapEntry s).reg 0) (trapEntry s)).1 = none :=
    putspScan_ends (s := trapEntry s) hne (BitVec.isLt _) hk
  have hstep := putspScan_step scanLimit ((trapEntry s).reg 0) (trapEntry s)
  obtain ⟨-, hregs, -⟩ := hstep.fields
  refine ⟨_, (exec_trap_bound hl).trans (congrArg _ (runPutsp_of_scan (Prod.ext hend rfl))), rfl, ?_⟩
  exact (congrArg (fun v => v[7]) hregs).trans (trapEntry_reg_seven s)

end Sys2Proof.Machine
end

section
/-! What an instruction leaves unchanged (10_state.md R21 to R27, 20_memory.md R55 to R58): registers, flags, pc and
cells, said once for the kinds of effect an instruction has and once for the architected routines. -/

namespace Sys2Proof.Machine

/-! ### Every instruction but TRAP -/

/-- What an instruction leaves unchanged by the tables of 10_state.md, and the cells it cannot write. -/
structure InstrFrame (i : Instr) (s t : State) : Prop where
  regs : RegsSameBut (mayWriteRegs i) s t
  cc : setsFlags i = false → t.cc = s.cc
  pc : writesPc i = false → t.pc = s.pc
  cells : isStore i = false → CellsSameBut [s.cfg.kbsrAddr, s.cfg.kbdrAddr] s t

theorem WroteResult.frame {i : Instr} {dr : RegId} {v : Word} {s t : State} (h : WroteResult dr v s t)
    (hr : mayWriteRegs i = [dr]) (hf : setsFlags i = true) : InstrFrame i s t :=
  ⟨hr ▸ h.regs, by simp [hf], fun _ => h.pc, fun _ a _ => h.cells a List.not_mem_nil⟩

theorem Stored.frame {i : Instr} {a v : Word} {s t : State} (h : Stored a v s t) (hs : isStore i = true) :
    InstrFrame i s t :=
  ⟨fun r _ => h.regs r List.not_mem_nil, fun _ => h.cc, fun _ => h.pc, by simp [hs]⟩

theorem Jumped.frame {i : Instr} {target : Word} {s t : State} (h : Jumped target (mayWriteRegs i) s t)
    (hw : writesPc i = true) : InstrFrame i s t :=
  ⟨h.regs, fun _ => h.cc, by simp [hw], fun _ a _ => h.cells a List.not_mem_nil⟩

/-- A read before the rest of an instruction is no part of what it leaves unchanged. -/
theorem InstrFrame.of_read {i : Instr} {s t : State} {a : Word} (h : InstrFrame i (readEffect s a) t) :
    InstrFrame i s t where
  regs := fun r hr => (h.regs r hr).trans (readEffect_reg s a r)
  cc := fun hf => (h.cc hf).trans (readEffect_cc s a)
  pc := fun hp => (h.pc hp).trans (readEffect_pc s a)
  cells := fun hs x hx => by
    have hc := h.cells hs x (by simpa using hx)
    simp only [List.mem_cons, List.not_mem_nil, or_false, not_or] at hx
    exact hc.trans (readEffect_cell s a hx.1 hx.2)

/-- A load is a result written after a read. -/
theorem loadFrom_frame {i : Instr} {dr : RegId} (a : Word) (s : State) (hr : mayWriteRegs i = [dr])
    (hf : setsFlags i = true) : InstrFrame i s (loadFrom dr a s) :=
  ((writeResult_wrote dr (memRead s a).1 (readEffect s a)).frame hr hf).of_read

/-- The fault policy touches neither the core's registers nor memory and devices. -/
theorem raise_kept (f : RuntimeFault) (s : State) : (raise f s).regs = s.regs ∧ (raise f s).cc = s.cc ∧
    (raise f s).pc = s.pc ∧ (raise f s).mem = s.mem ∧ (raise f s).keys = s.keys ∧
    (raise f s).output = s.output := by
  rcases raise_cases f s with ⟨-, e⟩ | ⟨-, e⟩ <;> rw [e] <;> exact ⟨rfl, rfl, rfl, rfl, rfl, rfl⟩

theorem raise_frame (i : Instr) (f : RuntimeFault) (s : State) : InstrFrame i s (raise f s) :=
  have ⟨hregs, hcc, hpc, hmem, _⟩ := raise_kept f s
  ⟨fun r _ => congrArg (fun v => v[r.val]) hregs, fun _ => hcc, fun _ => hpc,
    fun _ a _ => congrArg (Memory.read · a) hmem⟩

/-- Every instruction but TRAP leaves unchanged what its frame says. -/
theorem exec_frame {i : Instr} {s t : State} (hi : ∀ v, i ≠ .trap v) (h : exec i s = .next t) :
    InstrFrame i s t := by
  cases i <;> cases h
  case addReg | addImm | andReg | andImm | notReg | lea => exact (writeResult_wrote _ _ s).frame rfl rfl
  case ld | ldr => exact loadFrom_frame _ s rfl rfl
  case ldi dr off9 => exact (loadFrom_frame _ (readEffect s _) rfl rfl).of_read
  case st | str => exact (memWrite_stored s _ _).frame rfl
  case sti sr off9 => exact ((memWrite_stored (readEffect s _) _ _).frame rfl).of_read
  case br nzp off9 =>
    split
    · exact (setPc_jumped _ s).frame rfl
    · exact (setPc_jumped s.pc s).frame rfl
  case jmp baseR => exact (setPc_jumped _ s).frame rfl
  case jsr | jsrr => exact (setPc_setReg_jumped _ _ s).frame rfl
  case res | rti => exact raise_frame _ _ s
  case trap v => exact absurd rfl (hi v)

/-! ### The architected routines and the unbound slot -/

/-- What an architected routine leaves unchanged: all registers but R0, all cells but the keyboard's, the flags
unless it is GETC or IN, and memory unless it is PUTS or PUTSP. -/
structure ArchFrame (r : Routine) (s t : State) : Prop where
  regs : RegsSameBut [0] s t
  cells : CellsSameBut [s.cfg.kbsrAddr, s.cfg.kbdrAddr] s t
  cc : r ≠ .getc → r ≠ .input → t.cc = s.cc
  mem : r ≠ .puts → r ≠ .putsp → t.mem = s.mem

theorem ArchFrame.finish {r : Routine} {s t : State} (h : ArchFrame r s t) : ArchFrame r s (finishTrap t) :=
  ⟨h.regs, h.cells, h.cc, h.mem⟩

theorem ArchFrame.stay {r : Routine} {s t : State} (h : ArchFrame r s t) (p : TrapPhase) :
    ArchFrame r s (stayInT3 p t) :=
  ⟨h.regs, h.cells, h.cc, h.mem⟩

/-- Registers, flags and memory kept are more than any frame asks. -/
theorem ArchFrame.of_kept (r : Routine) {s t : State} (h1 : t.regs = s.regs) (h2 : t.cc = s.cc)
    (h3 : t.mem = s.mem) : ArchFrame r s t :=
  ⟨fun x _ => congrArg (fun v => v[x.val]) h1, fun a _ => congrArg (Memory.read · a) h3, fun _ _ => h2,
    fun _ _ => h3⟩

theorem TookKey.arch {r : Routine} {c : Byte} {rest : List (Option Byte)} {flags : Bool} {echo : List Byte}
    {s t : State} (h : TookKey c rest flags echo s t) (hr : r = .getc ∨ r = .input) : ArchFrame r s t :=
  ⟨h.regs, fun a _ => congrArg (Memory.read · a) h.mem, fun h1 h2 => absurd hr (by simp [h1, h2]),
    fun _ _ => h.mem⟩

theorem ScanStep.arch {r : Routine} {s t : State} (h : ScanStep s t) (hr : r = .puts ∨ r = .putsp) :
    ArchFrame r s t := by
  obtain ⟨-, hregs, -, hcc, -⟩ := h.fields
  refine ⟨fun x _ => congrArg (fun v => v[x.val]) hregs, fun a ha => ?_, fun _ _ => hcc,
    fun h1 h2 => absurd hr (by simp [h1, h2])⟩
  simp only [List.mem_cons, List.not_mem_nil, or_false, not_or] at ha
  exact h.cells a ha.1 ha.2

/-- PUTS and PUTSP end their scan or stay in T3 after it. -/
theorem runPuts_frame (a : Word) (s : State) : ArchFrame .puts s (runPuts a s) := by
  have h := (putsScan_step scanLimit a s).arch (.inl rfl)
  unfold runPuts
  split
  · next t ht => rw [ht] at h; exact h.finish
  · next b t ht => rw [ht] at h; exact h.stay _

theorem runPutsp_frame (a : Word) (s : State) : ArchFrame .putsp s (runPutsp a s) := by
  have h := (putspScan_step scanLimit a s).arch (.inr rfl)
  unfold runPutsp
  split
  · next t ht => rw [ht] at h; exact h.finish
  · next b t ht => rw [ht] at h; exact h.stay _

/-- Every routine but the host's leaves unchanged what its frame says. -/
theorem startRoutine_frame {r : Routine} (hr : ∀ id, r ≠ .host id) (s : State) :
    ArchFrame r s (startRoutine r s) := by
  cases r with
  | getc =>
    rcases runGetc_cases s with ⟨-, e⟩ | ⟨c, rest, u, -, e, h⟩ <;> rw [startRoutine, e]
    · exact .of_kept _ rfl rfl rfl
    · exact (h.arch (.inl rfl)).finish
  | input =>
    rcases runInput_cases s with ⟨-, e⟩ | ⟨c, rest, u, -, e, h⟩ <;> rw [startRoutine, e]
    · exact .of_kept _ rfl rfl rfl
    · exact (h.arch (.inr rfl)).finish
  | out => exact .of_kept _ rfl rfl rfl
  | halt => exact .of_kept _ rfl rfl rfl
  | puts => exact runPuts_frame _ s
  | putsp => exact runPutsp_frame _ s
  | host id => exact absurd rfl (hr id)

/-- What a TRAP to an architected or unbound slot leaves unchanged; pc is back at the return address. -/
structure TrapFrame (slot : Option Routine) (s t : State) : Prop where
  regs : RegsSameBut [7, 0] s t
  pc : t.pc = s.pc
  cells : CellsSameBut [s.cfg.kbsrAddr, s.cfg.kbdrAddr] s t
  cc : slot ≠ some .getc → slot ≠ some .input → t.cc = s.cc
  plain : slot ≠ some .puts → slot ≠ some .putsp → CellsSameBut [] s t

theorem exec_trap_frame {v : Byte} {s t : State} (hh : ∀ id, s.tt.lookup v ≠ some (.host id))
    (h : exec (.trap v) s = .next t) : TrapFrame (s.tt.lookup v) s t := by
  cases hl : s.tt.lookup v with
  | none =>
    obtain ⟨t', h', -, hpc, hregs, hcc, hcells, -⟩ := unboundTrapLinksAndFollowsThePolicy v s hl
    obtain rfl : t' = t := Host.Outcome.next.inj (h'.symm.trans h)
    exact ⟨fun r hr => hregs r fun h7 => hr (List.mem_append_left [0] h7), hpc,
      fun a _ => hcells a List.not_mem_nil, fun _ _ => hcc, fun _ _ => hcells⟩
  | some r =>
    rw [exec_trap_bound hl] at h
    cases h
    have hf := startRoutine_frame (fun id e => hh id (e ▸ hl)) (trapEntry s)
    refine ⟨fun x hx => ?_, ?_, hf.cells, fun h1 h2 => hf.cc (by simpa using h1) (by simpa using h2),
      fun h1 h2 a _ => congrArg (Memory.read · a) (hf.mem (by simpa using h1) (by simpa using h2))⟩
    · simp only [List.mem_cons, List.not_mem_nil, or_false, not_or] at hx
      exact (hf.regs x (by simpa using hx.2)).trans (trapEntry_regs s x (by simpa using hx.1))
    · rcases (startRoutine_step r (trapEntry s)).phase with ⟨-, e⟩ | ⟨-, -, e⟩
      · exact e.trans ((hf.regs 7 (by decide)).trans (trapEntry_reg_seven s))
      · exact e

/-- A TRAP that is not the host's has no routine of the host in its slot. -/
theorem lookup_ne_host {v : Byte} {s : State} (h : ¬ IsHostTrap (.trap v) s) (id : Nat) :
    s.tt.lookup v ≠ some (.host id) := fun e => h ⟨v, id, rfl, e⟩

/-! ### The obligations -/

/-- Settles O17: the registers' clause of the frames. -/
theorem registersNotNamedAreKept : Obligations.RegistersNotNamedAreKept := by
  intro i s t hh h
  cases i
  case trap v => exact (exec_trap_frame (lookup_ne_host hh) h).regs
  all_goals exact (exec_frame (by simp) h).regs

/-- Settles O18: the clauses of the frames about flags and pc. -/
theorem flagsAndPcNotNamedAreKept : Obligations.FlagsAndPcNotNamedAreKept := by
  intro i s t h
  refine ⟨fun hf hi => (exec_frame hi h).cc hf, fun hp hh => ?_, ?_⟩
  · cases i
    case trap v => exact (exec_trap_frame (lookup_ne_host hh) h).pc
    all_goals exact (exec_frame (by simp) h).pc hp
  · rintro v rfl hl
    have hne : ∀ r, r ∉ [Routine.out, .puts, .putsp, .halt] → s.tt.lookup v ≠ some r := by
      intro r hr e
      rw [e] at hl
      exact hr (by simpa using hl)
    exact (exec_trap_frame (fun id => hne _ (by simp)) h).cc (hne _ (by decide)) (hne _ (by decide))

/-- Neither a cell nor a device was touched. -/
theorem plain_of_eq {s t : State} (h1 : t.mem = s.mem) (h2 : t.keys = s.keys) (h3 : t.output = s.output) :
    CellsSameBut [] s t ∧ SameDevices s t :=
  ⟨fun a _ => congrArg (Memory.read · a) h1, h2, h3⟩

/-- Settles O19: a read away from KBSR is plain, and everything else that is not a store or a routine leaves
memory and devices alone. -/
theorem onlyStoresWriteMemory : Obligations.OnlyStoresWriteMemory := by
  intro i s t hs hh h
  cases i
  case trap v =>
    have hf := exec_trap_frame (lookup_ne_host hh) h
    exact ⟨hf.cells, fun _ _ _ hv => ⟨hf.plain (hv v rfl).1 (hv v rfl).2, fun hn => absurd rfl (hn v)⟩⟩
  all_goals
    refine ⟨(exec_frame (by simp) h).cells hs, fun hld hldi hldr _ => ?_⟩
    suffices hp : CellsSameBut [] s t ∧ SameDevices s t from ⟨hp.1, fun _ => hp.2⟩
  case st | sti | str => simp [isStore] at hs
  all_goals cases h
  case ld => exact (loadFrom_plain _ (hld _ _ rfl)).2
  case ldr => exact (loadFrom_plain _ (hldr _ _ _ rfl)).2
  case ldi =>
    obtain ⟨h1, h2⟩ := hldi _ _ rfl
    rw [indirect, memRead_of_ne s h1]
    exact (loadFrom_plain _ h2).2
  case res | rti =>
    obtain ⟨-, -, -, hmem, hkeys, hout⟩ := raise_kept _ s
    exact plain_of_eq hmem hkeys hout
  case br => split <;> exact plain_of_eq rfl rfl rfl
  all_goals exact plain_of_eq rfl rfl rfl

/-! ### The flags an instruction sets -/

/-- After a result was written the flag is that of its register. -/
theorem flagOf_writeResult (dr : RegId) (v : Word) (s : State) :
    FlagOf ((writeResult dr v s).reg dr) (writeResult dr v s).cc :=
  have hw := writeResult_wrote dr v s
  hw.dest.symm ▸ hw.cc

/-- After a key was taken with its flags, the flag is that of R0. -/
theorem TookKey.flagOf {c : Byte} {rest : List (Option Byte)} {echo : List Byte} {s u : State}
    (h : TookKey c rest true echo s u) : FlagOf (u.reg 0) u.cc :=
  h.r0.symm ▸ h.ccSet rfl

/-- Settles O21: every instruction that sets the flags ends in a result written, and GETC and IN in a key
taken. -/
theorem setccChoosesExactlyOneFlag : Obligations.SetccChoosesExactlyOneFlag := by
  refine ⟨fun v s => ⟨flagOf_ofWord v, rfl⟩, fun i s t hf h => ?_, fun v s t h hidle hl => ?_⟩
  · cases i
    case br | st | jsr | jsrr | str | rti | sti | jmp | res | trap => simp [setsFlags] at hf
    all_goals cases h; exact ⟨_, rfl, flagOf_writeResult _ _ _⟩
  · rcases hl with hl | ⟨hl, hin⟩ <;> rw [exec_trap_bound hl] at h <;> cases h
    · rcases runGetc_cases (trapEntry s) with ⟨-, e⟩ | ⟨c, rest, u, -, e, hk⟩ <;>
        rw [startRoutine, e] at hidle ⊢
      · simp [stayInT3] at hidle
      · exact hk.flagOf
    · rcases runInput_cases (trapEntry s) with ⟨-, e⟩ | ⟨c, rest, u, -, e, hk⟩ <;>
        rw [startRoutine, e] at hidle ⊢
      · simp [stayInT3] at hidle
      · rw [show (trapEntry s).cfg.inSetsFlags = true from hin] at hk
        exact hk.flagOf

end Sys2Proof.Machine
end

section
/-! What does not look at the condition flags or at the output (10_state.md R27, 00_scope.md R8(c)): one statement
about both, from which the two noninterference obligations are read off. -/

namespace Sys2Proof.Machine

/-- The state with another flag and another output. -/
def State.relabel (s : State) (f : Flag) (o : List Byte) : State := { s with cc := f, output := o }

/-- Run on `s` with any flag and any output, `F` does the same: it appends the same characters, and the flag it
leaves depends on the one it found alone. -/
def Blind (F : State → State) (s : State) : Prop :=
  ∃ (G : Flag → Flag) (cs : List Byte), ∀ f o, F (s.relabel f o) = (F s).relabel (G f) (o ++ cs)

/-- What keeps flag and output is blind to them. -/
theorem Blind.keep {F : State → State} {s : State} (h : ∀ f o, F (s.relabel f o) = (F s).relabel f o) :
    Blind F s :=
  ⟨id, [], fun f o => by rw [h, List.append_nil]; rfl⟩

/-- What sets the flag from a result and keeps the output is blind to them. -/
theorem Blind.set {F : State → State} {s : State} (h : ∀ f o, F (s.relabel f o) = (F s).relabel (F s).cc o) :
    Blind F s :=
  ⟨fun _ => (F s).cc, [], fun f o => by rw [h, List.append_nil]⟩

/-- Where the flag and output are those of the state, the output is what `F` appends. -/
theorem output_eq_of_relabel {F : State → State} {s : State} {G : Flag → Flag} {cs : List Byte}
    (h : ∀ f o, F (s.relabel f o) = (F s).relabel (G f) (o ++ cs)) :
    (F s).cc = G s.cc ∧ (F s).output = s.output ++ cs :=
  have hs : F s = (F s).relabel (G s.cc) (s.output ++ cs) := h s.cc s.output
  ⟨congrArg State.cc hs, congrArg State.output hs⟩

/-! ### Reads, scans and routines -/

theorem readEffect_relabel (s : State) (f : Flag) (o : List Byte) (a : Word) :
    readEffect (s.relabel f o) a = (readEffect s a).relabel f o :=
  (readEffect_setOutput (s.setCc f) a o).trans (congrArg (fun t : State => { t with output := o })
    (readEffect_setCc s a f))

theorem loadFrom_relabel (dr : RegId) (a : Word) (s : State) (f : Flag) (o : List Byte) :
    loadFrom dr a (s.relabel f o) = (loadFrom dr a s).relabel (loadFrom dr a s).cc o := by
  simp only [loadFrom, memRead, readEffect_relabel]
  rfl

theorem memRead_relabel (s : State) (f : Flag) (o : List Byte) (a : Word) :
    memRead (s.relabel f o) a = ((memRead s a).1, (memRead s a).2.relabel f o) := by
  simp only [memRead, readEffect_relabel]
  rfl

theorem raise_relabel (x : RuntimeFault) (s : State) (f : Flag) (o : List Byte) :
    raise x (s.relabel f o) = (raise x s).relabel f o := by
  cases h : s.cfg.strict
  · rw [raise_lenient x s h, raise_lenient x (s.relabel f o) h]
  · rw [raise_strict x s h, raise_strict x (s.relabel f o) h]
    rfl

/-- A scan of PUTS appends the same characters and ends at the same place. -/
theorem putsScan_relabel (n : Nat) : ∀ (a : Word) (s : State), ∃ cs, ∀ f o,
    putsScan n a (s.relabel f o) = ((putsScan n a s).1, (putsScan n a s).2.relabel f (o ++ cs)) := by
  induction n with
  | zero => exact fun a s => ⟨[], fun f o => by rw [List.append_nil]; rfl⟩
  | succ n ih =>
    intro a s
    by_cases hw : (memRead s a).1 = 0x0000#16
    · refine ⟨[], fun f o => ?_⟩
      rw [putsScan, putsScan, memRead_relabel, if_pos hw, if_pos hw, List.append_nil]
    · obtain ⟨cs, h⟩ := ih (a + 1) ((memRead s a).2.putChar (lowByte (memRead s a).1))
      refine ⟨lowByte (memRead s a).1 :: cs, fun f o => ?_⟩
      rw [putsScan, putsScan, memRead_relabel, if_neg hw, if_neg hw, List.append_cons]
      exact h f _

/-- A scan of PUTSP appends the same characters and ends at the same place. -/
theorem putspScan_relabel (n : Nat) : ∀ (a : Word) (s : State), ∃ cs, ∀ f o,
    putspScan n a (s.relabel f o) = ((putspScan n a s).1, (putspScan n a s).2.relabel f (o ++ cs)) := by
  induction n with
  | zero => exact fun a s => ⟨[], fun f o => by rw [List.append_nil]; rfl⟩
  | succ n ih =>
    intro a s
    by_cases hlo : lowByte (memRead s a).1 = 0x00#8
    · refine ⟨[], fun f o => ?_⟩
      rw [putspScan, putspScan, memRead_relabel, if_pos hlo, if_pos hlo, List.append_nil]
    by_cases hhi : highByte (memRead s a).1 = 0x00#8
    · refine ⟨[lowByte (memRead s a).1], fun f o => ?_⟩
      rw [putspScan, putspScan, memRead_relabel, if_neg hlo, if_neg hlo, if_pos hhi, if_pos hhi]
      rfl
    · obtain ⟨cs, h⟩ := ih (a + 1)
        (((memRead s a).2.putChar (lowByte (memRead s a).1)).putChar (highByte (memRead s a).1))
      refine ⟨lowByte (memRead s a).1 :: highByte (memRead s a).1 :: cs, fun f o => ?_⟩
      rw [putspScan, putspScan, memRead_relabel, if_neg hlo, if_neg hlo, if_neg hhi, if_neg hhi, List.append_cons,
        List.append_cons]
      exact h f _

theorem runPuts_blind (a : Word) (s : State) : Blind (runPuts a) s := by
  obtain ⟨cs, h⟩ := putsScan_relabel scanLimit a s
  refine ⟨id, cs, fun f o => ?_⟩
  rw [runPuts, runPuts, h]
  rcases putsScan scanLimit a s with ⟨_ | b, t⟩ <;> rfl

theorem runPutsp_blind (a : Word) (s : State) : Blind (runPutsp a) s := by
  obtain ⟨cs, h⟩ := putspScan_relabel scanLimit a s
  refine ⟨id, cs, fun f o => ?_⟩
  rw [runPutsp, runPutsp, h]
  rcases putspScan scanLimit a s with ⟨_ | b, t⟩ <;> rfl

theorem runGetc_blind (s : State) : Blind runGetc s := by
  cases h : readKey s.keys with
  | none => exact .keep fun f o => by rw [runGetc_none h, runGetc_none (s := s.relabel f o) h]; rfl
  | some p => exact .set fun f o => by rw [runGetc_some h, runGetc_some (s := s.relabel f o) h]; rfl

theorem runInput_blind (s : State) : Blind runInput s := by
  cases h : readKey s.keys with
  | none => exact .keep fun f o => by rw [runInput_none h, runInput_none (s := s.relabel f o) h]; rfl
  | some p =>
    refine ⟨fun f => if s.cfg.inSetsFlags then Flag.ofWord (zext16 p.1) else f, [p.1], fun f o => ?_⟩
    rw [runInput_some h, runInput_some (s := s.relabel f o) h]
    cases hin : s.cfg.inSetsFlags <;> simp [inputResult, hin, State.relabel] <;> rfl

/-- Every routine but the host's is blind. -/
theorem startRoutine_blind {r : Routine} (hr : ∀ id, r ≠ .host id) (s : State) : Blind (startRoutine r) s := by
  cases r with
  | getc => exact runGetc_blind s
  | out => exact ⟨id, [lowByte (s.reg 0)], fun _ _ => rfl⟩
  | puts => exact runPuts_blind (s.reg 0) s
  | input => exact runInput_blind s
  | putsp => exact runPutsp_blind (s.reg 0) s
  | halt => exact .keep fun _ _ => rfl
  | host id => exact absurd rfl (hr id)

/-! ### Every instruction -/

/-- Run on `s` with any flag and any output, the instruction does the same. -/
def ExecBlind (i : Instr) (s : State) : Prop :=
  ∃ F : State → State, (∀ f o, exec i (s.relabel f o) = .next (F (s.relabel f o))) ∧ Blind F s

/-- An instruction that is one function of the state is as blind as the function. -/
theorem ExecBlind.of {i : Instr} {s : State} (F : State → State) (h : ∀ u, exec i u = .next (F u))
    (hb : Blind F s) : ExecBlind i s := ⟨F, fun _ _ => h _, hb⟩

/-- An instruction that writes a result is blind where the value is. -/
theorem ExecBlind.result {i : Instr} {s : State} (dr : RegId) (value : State → Word)
    (h : ∀ u, exec i u = .next (writeResult dr (value u) u)) (hv : ∀ f o, value (s.relabel f o) = value s) :
    ExecBlind i s :=
  .of (fun u => writeResult dr (value u) u) h (.set fun f o => by rw [hv]; rfl)

/-- Every instruction but BR and a TRAP to a routine of the host is blind to flags and output. -/
theorem exec_blind {i : Instr} {s : State} (hbr : ∀ nzp off9, i ≠ .br nzp off9) (hh : ¬ IsHostTrap i s) :
    ExecBlind i s := by
  cases i with
  | br nzp off9 => exact absurd rfl (hbr nzp off9)
  | addReg dr sr1 sr2 => exact .result dr (fun u => u.reg sr1 + u.reg sr2) (fun _ => rfl) fun _ _ => rfl
  | addImm dr sr1 imm5 => exact .result dr (fun u => u.reg sr1 + sext5 imm5) (fun _ => rfl) fun _ _ => rfl
  | andReg dr sr1 sr2 => exact .result dr (fun u => u.reg sr1 &&& u.reg sr2) (fun _ => rfl) fun _ _ => rfl
  | andImm dr sr1 imm5 => exact .result dr (fun u => u.reg sr1 &&& sext5 imm5) (fun _ => rfl) fun _ _ => rfl
  | notReg dr sr1 => exact .result dr (fun u => ~~~ u.reg sr1) (fun _ => rfl) fun _ _ => rfl
  | lea dr off9 => exact .result dr (fun u => pcRelative u off9) (fun _ => rfl) fun _ _ => rfl
  | ld dr off9 =>
    exact .of (fun u => loadFrom dr (pcRelative u off9) u) (fun _ => rfl)
      (.set (loadFrom_relabel dr (pcRelative s off9) s))
  | ldr dr baseR off6 =>
    exact .of (fun u => loadFrom dr (basePlusOffset u baseR off6) u) (fun _ => rfl)
      (.set (loadFrom_relabel dr (basePlusOffset s baseR off6) s))
  | ldi dr off9 =>
    refine .of (fun u => loadFrom dr (indirect u off9).1 (indirect u off9).2) (fun _ => rfl) (.set fun f o => ?_)
    rw [show indirect (s.relabel f o) off9 = _ from memRead_relabel s f o _]
    exact loadFrom_relabel dr _ _ f o
  | st sr off9 =>
    exact .of (fun u => memWrite u (pcRelative u off9) (u.reg sr)) (fun _ => rfl) (.keep fun _ _ => rfl)
  | str sr baseR off6 =>
    exact .of (fun u => memWrite u (basePlusOffset u baseR off6) (u.reg sr)) (fun _ => rfl)
      (.keep fun _ _ => rfl)
  | sti sr off9 =>
    refine .of (fun u => memWrite (indirect u off9).2 (indirect u off9).1 (u.reg sr)) (fun _ => rfl)
      (.keep fun f o => ?_)
    rw [show indirect (s.relabel f o) off9 = _ from memRead_relabel s f o _]
    rfl
  | jmp baseR => exact .of (fun u => u.setPc (u.reg baseR)) (fun _ => rfl) (.keep fun _ _ => rfl)
  | jsr off11 =>
    exact .of (fun u => (u.setReg 7 u.pc).setPc (callTarget u off11)) (fun _ => rfl) (.keep fun _ _ => rfl)
  | jsrr baseR =>
    exact .of (fun u => (u.setReg 7 u.pc).setPc ((u.setReg 7 u.pc).reg baseR)) (fun _ => rfl)
      (.keep fun _ _ => rfl)
  | rti low => exact .of _ (fun _ => rfl) (.keep (raise_relabel (.reservedOpcode (0b1000#4 ++ low)) s))
  | res low => exact .of _ (fun _ => rfl) (.keep (raise_relabel (.reservedOpcode (0b1101#4 ++ low)) s))
  | trap v =>
    cases hl : s.tt.lookup v with
    | none =>
      exact ⟨fun u => raise (.unboundTrapVector v) (trapReturn (trapEntry u)),
        fun f o => exec_trap_unbound (s := s.relabel f o) hl,
        .keep fun f o => raise_relabel _ (trapReturn (trapEntry s)) f o⟩
    | some r =>
      obtain ⟨G, cs, h⟩ := startRoutine_blind (fun id e => lookup_ne_host hh id (e ▸ hl)) (trapEntry s)
      exact ⟨fun u => startRoutine r (trapEntry u), fun f o => exec_trap_bound (s := s.relabel f o) hl, G, cs, h⟩

/-- Settles O16: the instruction is run with another flag and the output as it is. -/
theorem onlyBranchReadsTheFlags : Obligations.OnlyBranchReadsTheFlags := by
  intro i s f hbr hh
  obtain ⟨F, he, G, cs, h⟩ := exec_blind hbr hh
  refine ⟨F s, G f, he s.cc s.output, (he f s.output).trans (congrArg _ ?_)⟩
  rw [h, ← (output_eq_of_relabel h).2]
  rfl

/-! ### Every step -/

/-- Run on `s` with any output, `F` does the same and appends the same characters. -/
def Appends (F : State → State) (s : State) : Prop :=
  ∃ cs, (F s).output = s.output ++ cs ∧ ∀ o, F { s with output := o } = { F s with output := o ++ cs }

theorem Blind.appends {F : State → State} {s : State} (hb : Blind F s) : Appends F s := by
  obtain ⟨G, cs, h⟩ := hb
  obtain ⟨hcc, hout⟩ := output_eq_of_relabel h
  refine ⟨cs, hout, fun o => (h s.cc o).trans ?_⟩
  rw [← hcc]
  rfl

/-- A routine of the host does not see the output and only appends to it. -/
theorem runHost_appends (id : Nat) (s : State) : Appends (runHost id) s := by
  refine ⟨(Config.hostRoutine id s.hostCalls (hostView s)).output, ?_, fun o => ?_⟩
  · rcases runHost_cases id s with ⟨-, e⟩ | ⟨-, e⟩ <;> rw [e] <;> rfl
  · rcases runHost_cases id s with ⟨hc, e⟩ | ⟨hc, e⟩ <;>
      rcases runHost_cases id { s with output := o } with ⟨hc', e'⟩ | ⟨hc', e'⟩
    · rw [e, e']; rfl
    · exact absurd (hc.symm.trans hc') (by simp)
    · exact absurd (hc.symm.trans hc') (by simp)
    · rw [e, e']; rfl

/-- A TRAP in T3 goes on the same, whatever the output. -/
theorem continueRoutine_appends (p : TrapPhase) (s : State) : Appends (continueRoutine p) s := by
  cases p with
  | idle => exact (Blind.keep fun _ _ => rfl).appends
  | getc => exact (runGetc_blind s).appends
  | input => exact (runInput_blind s).appends
  | puts a => exact (runPuts_blind a s).appends
  | putsp a => exact (runPutsp_blind a s).appends
  | host id => exact runHost_appends id s

/-- Every instruction does the same, whatever the output. -/
theorem exec_appends (i : Instr) (s : State) :
    ∃ F : State → State,
      (∀ o, exec i { s with output := o } = .next (F { s with output := o })) ∧ Appends F s := by
  by_cases hh : IsHostTrap i s
  · obtain ⟨v, id, rfl, hl⟩ := hh
    obtain ⟨cs, hout, h⟩ := runHost_appends id (trapEntry s)
    exact ⟨fun u => startRoutine (.host id) (trapEntry u), fun o => exec_trap_bound (s := { s with output := o }) hl,
      cs, hout, h⟩
  by_cases hbr : ∃ nzp off9, i = .br nzp off9
  · obtain ⟨nzp, off9, rfl⟩ := hbr
    refine ⟨fun u => if branchTaken nzp u.cc then u.setPc (pcRelative u off9) else u, fun _ => rfl, [],
      ?_, fun o => ?_⟩
    · rw [List.append_nil]; dsimp only; split <;> rfl
    · rw [List.append_nil]
      by_cases hb : branchTaken nzp s.cc = true <;> simp only [hb] <;> rfl
  · obtain ⟨F, he, hb⟩ := exec_blind (by simpa using hbr) hh
    exact ⟨F, fun o => he s.cc o, hb.appends⟩

/-- The state the instruction of a Step is run on, whatever the output. -/
theorem fetch_setOutput (s : State) (o : List Byte) :
    fetch { s with output := o } = ((fetch s).1, { (fetch s).2 with output := o }) := by
  simp only [fetch, memRead, readEffect_setOutput]
  rfl

/-- Settles O14: a resumed TRAP, a cancelled step and an instruction do the same, whatever the output. -/
theorem outputIsAppendedAndNeverRead : Obligations.OutputIsAppendedAndNeverRead := by
  intro s t o h
  rcases step_cases s with ⟨hp, e⟩ | ⟨hp, ha, e⟩ | ⟨hp, ha, e⟩
  · obtain ⟨cs, hout, happ⟩ := continueRoutine_appends s.trapPhase (s.setStatus (some .continued))
    obtain rfl := Host.Outcome.next.inj (e.symm.trans h)
    exact ⟨cs, hout, (step_in_T3 (s := { s with output := o }) hp).trans (congrArg _ (happ o))⟩
  · obtain rfl := Host.Outcome.next.inj (e.symm.trans h)
    refine ⟨[], ?_, ?_⟩
    · rw [List.append_nil]
      exact readEffect_output s s.pc
    · rw [step_cancel (s := { s with output := o }) hp ha, fetch_setOutput, List.append_nil]
      rfl
  · obtain ⟨F, he, cs, hout, happ⟩ := exec_appends (decode (fetch s).1) (consultHook (fetch s).2)
    obtain rfl : F (consultHook (fetch s).2) = t :=
      Host.Outcome.next.inj ((he _).symm.trans (e.symm.trans h))
    refine ⟨cs, hout.trans (congrArg (· ++ cs) (readEffect_output s s.pc)), ?_⟩
    rw [step_goOn (s := { s with output := o }) hp ha, fetch_setOutput]
    exact (he o).trans (congrArg _ (happ o))

end Sys2Proof.Machine
end

section
/-! The canonical form of a sparse table holds each content in one way (10_state.md R28; log 12). -/

namespace Sys2Proof.Machine

variable {α : Type} {d : α}

theorem Sparse.get_cons_self (e : Nat × α) (rest : List (Nat × α)) : Sparse.get d (e :: rest) e.1 = e.2 :=
  if_pos rfl

theorem Sparse.get_cons_of_ne {e : Nat × α} {a : Nat} (h : e.1 ≠ a) (rest : List (Nat × α)) :
    Sparse.get d (e :: rest) a = Sparse.get d rest a := if_neg h

/-- The first key of a table in canonical form is not below every key of a table that reads the same. -/
theorem Sparse.not_lt_all [DecidableEq α] {bound : Nat} {e : Nat × α} {rest l' : List (Nat × α)}
    (h : Sparse.wf d bound (e :: rest) = true)
    (heq : ∀ a < bound, Sparse.get d (e :: rest) a = Sparse.get d l' a) : ¬ ∀ f ∈ l', e.1 < f.1 := by
  intro hlt
  obtain ⟨hv, hb, -⟩ := (Sparse.wf_cons d bound e rest).mp h
  have hread := heq e.1 hb
  rw [Sparse.get_cons_self, Sparse.get_of_lt d l' e.1 hlt] at hread
  exact hv hread

/-- Two tables in canonical form that read the same at every key below the bound are equal. -/
theorem Sparse.eq_of_get_eq [DecidableEq α] {bound : Nat} {l : List (Nat × α)} : ∀ {l' : List (Nat × α)},
    Sparse.wf d bound l = true → Sparse.wf d bound l' = true →
    (∀ a < bound, Sparse.get d l a = Sparse.get d l' a) → l = l' := by
  induction l with
  | nil =>
    rintro (_ | ⟨f, rest'⟩) - h' heq
    · rfl
    · exact absurd (by simp) (Sparse.not_lt_all h' fun a ha => (heq a ha).symm)
  | cons e rest ih =>
    rintro (_ | ⟨f, rest'⟩) h h' heq
    · exact absurd (by simp) (Sparse.not_lt_all h heq)
    · obtain ⟨-, hb, hlt, hw⟩ := (Sparse.wf_cons d bound e rest).mp h
      obtain ⟨-, -, hlt', hw'⟩ := (Sparse.wf_cons d bound f rest').mp h'
      have hkey : e.1 = f.1 := by
        rcases Nat.lt_trichotomy e.1 f.1 with hef | hef | hef
        · refine absurd (fun g hg => ?_) (Sparse.not_lt_all h heq)
          rcases List.mem_cons.mp hg with rfl | hg
          · exact hef
          · exact hef.trans (hlt' g hg)
        · exact hef
        · refine absurd (fun g hg => ?_) (Sparse.not_lt_all h' fun a ha => (heq a ha).symm)
          rcases List.mem_cons.mp hg with rfl | hg
          · exact hef
          · exact hef.trans (hlt g hg)
      have hval : e.2 = f.2 := by
        have hread := heq e.1 hb
        rwa [Sparse.get_cons_self, hkey, Sparse.get_cons_self] at hread
      have hrest : rest = rest' := ih hw hw' fun a ha => by
        by_cases hea : e.1 = a
        · rw [Sparse.get_of_lt d rest a fun g hg => hea ▸ hlt g hg,
            Sparse.get_of_lt d rest' a fun g hg => hea ▸ hkey ▸ hlt' g hg]
        · have hread := heq a ha
          rwa [Sparse.get_cons_of_ne hea, Sparse.get_cons_of_ne (hkey ▸ hea)] at hread
      rw [Prod.ext hkey hval, hrest]

/-- Settles O25: every key below 65536 is the number of an address. -/
theorem equalCellsAreEqualMemories : Obligations.EqualCellsAreEqualMemories := fun _ _ h h' heq =>
  Sparse.eq_of_get_eq h h' fun a ha => by
    have hread := heq (BitVec.ofNat 16 a)
    rwa [Memory.read, Memory.read, BitVec.toNat_ofNat, Nat.mod_eq_of_lt ha] at hread

end Sys2Proof.Machine
end

section
/-! The host commands Reset, Load and BindTrap (70_reset_and_hazards.md). -/

namespace Sys2Proof.Machine

/-! ### Reset -/

/-- The architected slots (10_state.md R36). -/
theorem lookup_architected : ∀ v : Byte, TrapTable.architected.lookup v =
    if v = 0x20#8 then some .getc else if v = 0x21#8 then some .out else if v = 0x22#8 then some .puts
    else if v = 0x23#8 then some .input else if v = 0x24#8 then some .putsp
    else if v = 0x25#8 then some .halt else none := by decide

/-- A table after the bindings of EXTRA_TRAPS, in the order they are listed. -/
def bindAll (t : TrapTable) (extra : List (Byte × Nat)) : TrapTable :=
  extra.foldl (fun t e => t.bind e.1 (.host e.2)) t

/-- A slot no binding names is as it was. -/
theorem lookup_bindAll_of_not_mem {extra : List (Byte × Nat)} {v : Byte} (hv : v ∉ extra.map Prod.fst) :
    ∀ t : TrapTable, (bindAll t extra).lookup v = t.lookup v := by
  induction extra with
  | nil => exact fun _ => rfl
  | cons e rest ih =>
    intro t
    obtain ⟨hne, hrest⟩ := not_or.mp (List.mem_cons.not.mp hv)
    exact (ih hrest _).trans ((TrapTable.lookup_bind t e.1 v (.host e.2)).trans (if_neg hne))

/-- Where no vector is named twice, each is bound to its routine. -/
theorem lookup_bindAll_of_mem {extra : List (Byte × Nat)} {v : Byte} {id : Nat} (hv : (v, id) ∈ extra)
    (hnd : (extra.map Prod.fst).Nodup) : ∀ t : TrapTable, (bindAll t extra).lookup v = some (.host id) := by
  induction extra with
  | nil => exact absurd hv List.not_mem_nil
  | cons e rest ih =>
    intro t
    obtain ⟨hne, hrest⟩ := List.nodup_cons.mp hnd
    rcases List.mem_cons.mp hv with rfl | hmem
    · exact (lookup_bindAll_of_not_mem hne _).trans ((TrapTable.lookup_bind t v v (.host id)).trans (if_pos rfl))
    · exact ih hmem hrest _

/-- Settles O57: Reset writes literal values, and the table is the architected one after its bindings. -/
theorem resetLeavesTheListedValues : Obligations.ResetLeavesTheListedValues := by
  refine ⟨fun s => ⟨State.reset_reg, rfl, rfl, fun _ => rfl, rfl, rfl, rfl, ⟨rfl, rfl⟩, fun hnd => ⟨?_, ?_⟩⟩,
    rfl, rfl⟩
  · exact fun v id hv => lookup_bindAll_of_mem hv hnd TrapTable.architected
  · exact fun v hv => (lookup_bindAll_of_not_mem hv TrapTable.architected).trans (lookup_architected v)

/-- Settles O59: a slot after a binding. -/
theorem bindTrapReplacesOneSlot : Obligations.BindTrapReplacesOneSlot := fun v u r s =>
  ⟨s.tt.lookup_bind v u r, rfl⟩

/-! ### Load -/

/-- Fewer than 65536 words on, an address is another one. -/
theorem wordAt_succ_ne (a : Word) {k : Nat} (hk : k + 1 < 65536) : wordAt a (k + 1) ≠ a := by
  intro h
  have hn := congrArg BitVec.toNat h
  have ha := a.isLt
  rw [wordAt, BitVec.toNat_add, BitVec.toNat_ofNat] at hn
  omega

/-- Words written one after another leave every other cell as it was. -/
theorem read_writeAll_of_ne (ws : List Word) : ∀ (m : Memory) (a b : Word), (∀ k < ws.length, b ≠ wordAt a k) →
    (m.writeAll a ws).read b = m.read b := by
  induction ws with
  | nil => exact fun _ _ _ _ => rfl
  | cons w ws ih =>
    intro m a b h
    have hb : b ≠ a := by simpa using h 0 (Nat.succ_pos _)
    rw [Memory.writeAll, ih _ _ _ fun k hk => by rw [wordAt_succ]; exact h (k + 1) (Nat.succ_lt_succ hk),
      Memory.read_write_of_ne m w hb]

/-- Word `k` of those written one after another stands `k` cells on. -/
theorem read_writeAll (ws : List Word) : ∀ (m : Memory) (a : Word) (k : Nat) (hk : k < ws.length),
    ws.length ≤ 65536 → (m.writeAll a ws).read (wordAt a k) = ws[k] := by
  induction ws with
  | nil => exact fun _ _ k hk => absurd hk (Nat.not_lt_zero k)
  | cons w ws ih =>
    rintro m a (_ | k) hk hlen
    · rw [wordAt_zero, Memory.writeAll, read_writeAll_of_ne ws _ _ _ fun j hj => ?_, Memory.read_write_self]
      · rfl
      · rw [wordAt_succ]
        exact (wordAt_succ_ne a (lt_of_lt_of_le (Nat.succ_lt_succ hj) hlen)).symm
    · rw [Memory.writeAll, ← wordAt_succ]
      exact ih _ (a + 1) k (Nat.lt_of_succ_lt_succ hk) (Nat.le_of_succ_le hlen)

/-- An image has a word for each two bytes; a trailing odd byte has none. -/
theorem length_imageWords : ∀ bs : List Byte, (imageWords bs).length = bs.length / 2
  | [] => rfl
  | [_] => by simp [imageWords]
  | hi :: lo :: rest => by
    simp only [imageWords, List.length_cons, length_imageWords rest]
    omega

/-- Word `k` of an image is its two bytes, the high one first. -/
theorem getElem_imageWords : ∀ (bs : List Byte) (k : Nat) (hk : k < (imageWords bs).length),
    (imageWords bs)[k] = bs.getD (2 * k) 0x00#8 ++ bs.getD (2 * k + 1) 0x00#8
  | [], k, hk => absurd hk (Nat.not_lt_zero k)
  | [_], k, hk => absurd hk (Nat.not_lt_zero k)
  | _ :: _ :: _, 0, _ => rfl
  | _ :: _ :: rest, k + 1, hk => getElem_imageWords rest k (Nat.lt_of_succ_lt_succ hk)

/-- Settles O58: the overflow test is the first thing Load does, and then it writes the image's words one after
another. -/
theorem loadWritesTheImageOrRefusesIt : Obligations.LoadWritesTheImageOrRefusesIt := by
  refine ⟨fun o1 o0 rest s => ⟨fun h => if_pos h, fun h => ⟨_, if_neg (Nat.not_lt.mpr h), ?_, ?_, rfl⟩⟩, ?_⟩
  · intro k hk
    rw [← length_imageWords] at hk h
    exact (read_writeAll _ s.mem _ k hk (by omega)).trans (getElem_imageWords rest k hk)
  · intro a ha
    exact read_writeAll_of_ne _ s.mem _ a fun k hk => ha k (length_imageWords rest ▸ hk)
  · rintro (_ | ⟨b, _ | ⟨b', bs⟩⟩) s h
    · rfl
    · rfl
    · exact absurd h (by simp)

end Sys2Proof.Machine
end

section
/-! The host command Run (70_reset_and_hazards.md R219, R222). -/

namespace Sys2Proof.Machine

/-- The loop stops where the run flag is clear between Steps. -/
theorem runLoop_stopped (n : Nat) {s : State} (h : s.trapPhase = .idle ∧ s.running = false) :
    runLoop (n + 1) s = .halted s := by
  rw [runLoop, if_pos h]

/-- The loop stops after a cancelled step. -/
theorem runLoop_cancelled (n : Nat) {s t : State} (h : ¬ (s.trapPhase = .idle ∧ s.running = false))
    (hs : step s = .next t) (hc : t.status = some .cancelled) : runLoop (n + 1) s = .cancelled t := by
  simp only [runLoop, if_neg h, hs, if_pos hc]

/-- The loop goes on after any other step. -/
theorem runLoop_next (n : Nat) {s t : State} (h : ¬ (s.trapPhase = .idle ∧ s.running = false))
    (hs : step s = .next t) (hc : t.status ≠ some .cancelled) : runLoop (n + 1) s = runLoop n t := by
  simp only [runLoop, if_neg h, hs, if_neg hc]

/-- The three ways the loop can go with a step left. -/
theorem runLoop_cases (s : State) :
    (s.trapPhase = .idle ∧ s.running = false ∧ ∀ n, runLoop (n + 1) s = .halted s) ∨
      (∃ t, t.running = true ∧ ∀ n, runLoop (n + 1) s = .cancelled t) ∨
      ∃ t, ∀ n, runLoop (n + 1) s = runLoop n t := by
  by_cases h : s.trapPhase = .idle ∧ s.running = false
  · exact .inl ⟨h.1, h.2, fun n => runLoop_stopped n h⟩
  · obtain ⟨t, hs⟩ := nothingStopsTheMachine.2 s
    by_cases hc : t.status = some .cancelled
    · obtain ⟨hp, -, ht⟩ := step_cancelled hs hc
      have hrun : t.running = s.running := ht ▸ readEffect_running s s.pc
      exact .inr (.inl ⟨t, by rw [hrun]; simpa [hp] using h, fun n => runLoop_cancelled n h hs hc⟩)
    · exact .inr (.inr ⟨t, fun n => runLoop_next n h hs hc⟩)

/-- What the loop's two answers mean, and that a larger bound gives the same. -/
theorem runLoop_answers (k : Nat) (t : State) : ∀ (n : Nat) (s : State),
    (runLoop n s = .halted t → t.trapPhase = .idle ∧ t.running = false ∧ runLoop (n + k) s = .halted t) ∧
    (runLoop n s = .cancelled t → t.running = true ∧ runLoop (n + k) s = .cancelled t) := by
  intro n
  induction n with
  | zero => exact fun s => ⟨nofun, nofun⟩
  | succ n ih =>
    intro s
    rw [Nat.succ_add]
    rcases runLoop_cases s with ⟨hp, hr, h⟩ | ⟨u, hr, h⟩ | ⟨u, h⟩
    · rw [h, h]
      exact ⟨fun e => by cases e; exact ⟨hp, hr, rfl⟩, nofun⟩
    · rw [h, h]
      exact ⟨nofun, fun e => by cases e; exact ⟨hr, rfl⟩⟩
    · rw [h, h]
      exact ih u

/-- Settles O60: the loop's three ways to go, and for the answers an induction on the bound. -/
theorem runStopsAfterHaltOrCancel : Obligations.RunStopsAfterHaltOrCancel := by
  refine ⟨fun _ _ => rfl, fun n s hp hr => runLoop_stopped n ⟨hp, hr⟩,
    fun n s t h hs => ⟨runLoop_cancelled n h hs, runLoop_next n h hs⟩, fun n s t hs => ?_,
    fun n k s t => runLoop_answers k t n s⟩
  have h : ¬ ((s.setRunning true).trapPhase = .idle ∧ (s.setRunning true).running = false) := by simp
  exact ⟨fun hp hr hc => (runLoop_next (n + 1) h hs hc).trans (runLoop_stopped n ⟨hp, hr⟩),
    fun hc => runLoop_cancelled n h hs hc⟩

end Sys2Proof.Machine
end
